-- ==== Sys2Proof/Word.lean ====
section
/-! DEFINITION. The plain types of the Wendby KS64 model: the byte of the host bus, the numbers that name
channels, lines, slots and outputs (spec/00_scope.md, section 4.1), and the two counts that the manual gives
48 bits and says do not wrap (R3, R71), which are plain natural numbers here (log entry 1). -/

namespace Sys2Proof

/-- A byte of the host bus, of a raw entry or of a register. -/
abbrev Byte := BitVec 8

/-- The low 16 bits of a stamp, as host-visible records carry them (R116, R198). -/
abbrev Half := BitVec 16

/-- CH0 to CH3. -/
abbrev Channel := Fin 4

/-- CH0 to CH2, the channels with a receiver, an assembler and a class map. -/
abbrev SerialChannel := Fin 3

/-- L0 to L7. -/
abbrev LineNum := Fin 8

/-- P0 to P63. -/
abbrev PatternNum := Fin 64

/-- OUT0 to OUT3. -/
abbrev OutputNum := Fin 4

/-- The level of an event, 0 to 3, 3 the highest (R118). -/
abbrev EventLevel := Fin 4

/-- A time of the millisecond time base (R71: "the times of this manual are plain non-negative numbers"). -/
abbrev Time := Nat

/-- An arrival number of one channel (R3). -/
abbrev ArrivalNum := Nat

end Sys2Proof
end

