-- ==== Sys2Proof/Syntax.lean ====
section
/-! DEFINITION. The commands of the block: one constructor for each row of spec/opcode_table.json, in the table's
order. A command is an event at the part's lines, an internal event of one of its blocks, or one host access to
a register. The operands are what the event carries from outside the part; what the part itself decides (the
channel a pass serves, the configuration byte a CONFIG_DATA write reaches) is read from the state. -/

namespace Sys2Proof

/-- The level on a line of the part. -/
inductive LineLevel where
  | low
  | high
  deriving DecidableEq, Repr

/-- What a receiver sampled of one frame after a start bit found at space (R176): the eight data bits, the sample
at the place of the parity bit (read only when the parity is EVEN or ODD) and the stop bit.
`true` is mark, the high level. -/
structure Frame where
  data : Byte
  parityMark : Bool
  stopMark : Bool
  deriving DecidableEq, Repr

/-- The commands, one per row of the table. -/
inductive Instr where
  /-- DEVICE_RESET (R191): the RESET line is driven to `asserted`. -/
  | deviceReset (asserted : Bool)
  /-- FRAME_RECEIVED (R176): the stop-bit sample of a frame. -/
  | frameReceived (ch : SerialChannel) (frame : Frame)
  /-- MARK_WAIT_END (R177): a receive line changes from space to mark. -/
  | markWaitEnd (ch : SerialChannel)
  /-- RAW_CHANGE (R180): the raw level of a discrete line changes to `level`. -/
  | rawChange (line : LineNum) (level : LineLevel)
  /-- DEBOUNCED_CHANGE (R180): the pending change of a line falls due. -/
  | debouncedChange (line : LineNum)
  /-- TAKE_PLAIN_BYTE (R13). -/
  | takePlainByte (ch : SerialChannel)
  /-- TAKE_LEAD_BYTE (R11). -/
  | takeLeadByte (ch : SerialChannel)
  /-- TAKE_RELEASE_BYTE (R12). -/
  | takeReleaseByte (ch : SerialChannel)
  /-- TAKE_DROP_BYTE (R10). -/
  | takeDropByte (ch : SerialChannel)
  /-- TAKE_ERROR_ENTRY (R18). -/
  | takeErrorEntry (ch : SerialChannel)
  /-- TAKE_BREAK_ENTRY (R19). -/
  | takeBreakEntry (ch : SerialChannel)
  /-- OVERRUN_TAKE (R20). -/
  | overrunTake (ch : Channel)
  /-- TAKE_LINE_ENTRY (R21), on CH3. -/
  | takeLineEntry
  /-- PREFIX_EXPIRY (R16). -/
  | prefixExpiry (ch : SerialChannel)
  /-- GRANT_END (R172). -/
  | grantEnd
  /-- MATCH_PASS (R50). -/
  | matchPass
  /-- GAP_DEADLINE_EXPIRY (R78), of the candidate that `pattern` and `position` name in the set of `ch` (R44). -/
  | gapDeadlineExpiry (ch : Channel) (pattern : PatternNum) (position : Nat)
  /-- LOCKOUT_EXPIRY (R81), of the record of `pattern` on `ch`. -/
  | lockoutExpiry (ch : Channel) (pattern : PatternNum)
  /-- TAIL_EXPIRY (R85). -/
  | tailExpiry (ch : Channel)
  /-- PULSE_EXPIRY (R143). -/
  | pulseExpiry (out : OutputNum)
  /-- DEFINE (R153), taken at its grant. -/
  | define
  /-- ARM (R156), taken at its grant. -/
  | arm
  /-- DISARM (R157), taken at its grant. -/
  | disarm
  /-- DELETE (R159), taken at its grant. -/
  | delete
  /-- READ_BACK (R160), taken at its grant. -/
  | readBack
  /-- CLEAR_LOCKOUT (R161), taken at its grant. -/
  | clearLockout
  /-- COMPACT (R165), taken at its grant. -/
  | compact
  /-- RUNTIME_RESET (R162), taken at its grant. -/
  | runtimeReset
  /-- BAD_COMMAND (R202): a code that names no command, taken at its grant. -/
  | badCommand
  /-- COMPACTION_MOVE (R167). -/
  | compactionMove
  /-- COMPACTION_END (R168): the step that finds no run out of place. -/
  | compactionEnd
  /-- OPERAND_WRITE (R149). -/
  | operandWrite (value : Byte)
  /-- STAGE_ADDR_WRITE (R147). -/
  | stageAddrWrite (value : Byte)
  /-- STAGE_DATA_WRITE (R147). -/
  | stageDataWrite (value : Byte)
  /-- STAGE_DATA_READ (R147). -/
  | stageDataRead
  /-- CONFIG_ADDR_WRITE (R194). -/
  | configAddrWrite (value : Byte)
  /-- CONFIG_DATA_READ (R194). -/
  | configDataRead
  /-- MODE_TO_OFF (R187): 0 written to CONFIG_DATA with CONFIG_ADDR at the MODE byte of a channel not in OFF. -/
  | modeToOff
  /-- MODE_OUT_OF_OFF (R188): a mode written to the MODE byte of a channel in OFF. -/
  | modeOutOfOff (value : Byte)
  /-- MODE_BYPASS_MATCH (R189): the other of BYPASS and MATCH written to the MODE byte of a channel. -/
  | modeBypassMatch (value : Byte)
  /-- LINE_SETTINGS_WRITE (R178), through CONFIG_DATA. -/
  | lineSettingsWrite (value : Byte)
  /-- PREFIX_WINDOW_WRITE (R17), through CONFIG_DATA. -/
  | prefixWindowWrite (value : Byte)
  /-- HOLD_LIMIT_WRITE (R106), through CONFIG_DATA. -/
  | holdLimitWrite (value : Byte)
  /-- TAIL_WINDOW_WRITE (R84), through CONFIG_DATA. -/
  | tailWindowWrite (value : Byte)
  /-- LINES_ENABLE_WRITE (R181), through CONFIG_DATA. -/
  | linesEnableWrite (value : Byte)
  /-- LINES_POLARITY_WRITE (R181), through CONFIG_DATA. -/
  | linesPolarityWrite (value : Byte)
  /-- DEBOUNCE_WRITE (R181), through CONFIG_DATA. -/
  | debounceWrite (value : Byte)
  /-- EVENT_LEVEL_WRITE (R119), through CONFIG_DATA. -/
  | eventLevelWrite (value : Byte)
  /-- INT_CTRL_WRITE (R134), through CONFIG_DATA. -/
  | intCtrlWrite (value : Byte)
  /-- WAKE_FLOOR_WRITE (R135), through CONFIG_DATA. -/
  | wakeFloorWrite (value : Byte)
  /-- PULSE_WIDTH_WRITE (R139), through CONFIG_DATA. -/
  | pulseWidthWrite (value : Byte)
  /-- ARBITER_MODE_WRITE (R173), through CONFIG_DATA. -/
  | arbiterModeWrite (value : Byte)
  /-- CLASS_SEL_WRITE (R195). -/
  | classSelWrite (value : Byte)
  /-- CLASS_ADDR_WRITE (R195). -/
  | classAddrWrite (value : Byte)
  /-- CLASS_DATA_WRITE (R7). -/
  | classDataWrite (value : Byte)
  /-- CLASS_DATA_READ (R195). -/
  | classDataRead
  /-- CHAN_SEL_WRITE (R193). -/
  | chanSelWrite (value : Byte)
  /-- TAKE (R111): CHAN_CTRL written with the TAKE request alone. -/
  | take
  /-- FLUSH (R113): CHAN_CTRL written with the FLUSH request alone. -/
  | flush
  /-- NEXT (R130): EVENT_CTRL written with the NEXT request alone. -/
  | next
  /-- CLEAR_LOST (R127): EVENT_CTRL written with the CLEAR_LOST request alone; bit n of the mask names level n. -/
  | clearLost (mask : BitVec 4)
  /-- OUTPUTS_WRITE (R144). -/
  | outputsWrite (value : Byte)
  /-- INJECT (R184). -/
  | inject (value : Byte)
  /-- REGISTER_WRITE (R191): a write of `value` to the direct register at `addr`, whatever register that is. -/
  | registerWrite (addr : Fin 32) (value : Byte)
  /-- COMMAND_WRITE (R149). -/
  | commandWrite (value : Byte)
  /-- FRAME_START (R176): a receive line changes from mark to space. -/
  | frameStart (ch : SerialChannel)
  /-- FALSE_START (R176): the middle of the start bit finds the line back at mark. -/
  | falseStart (ch : SerialChannel)
  /-- TIME_BASE_ADVANCE (R71): a millisecond of the reference clock passes. -/
  | timeBaseAdvance
  deriving DecidableEq, Repr

end Sys2Proof
end

