-- ==== Sys2Proof/WellFormed.lean ====
section
/-! DEFINITION. Which commands spell a step of the table as the table words it. A command whose operand fails
its check still has a meaning (the part ignores a refused value, R191, R194): the check says that the row the
command names is not the row of such a write, but REGISTER_WRITE. -/

namespace Sys2Proof.Instr

/-- The operand checks, each from the rule that gives the values a row takes. -/
def wellFormed : Instr → Bool
  | .gapDeadlineExpiry _ _ position => decide (1 ≤ position) && decide (position ≤ 15)   -- R43, R26
  | .stageAddrWrite v => decide (v.toNat ≤ 57)                                           -- R147
  | .configAddrWrite v => decide (v.toNat ≤ 63)                                          -- R194
  | .modeOutOfOff v => v == 1 || v == 2                                                  -- R186, R188
  | .modeBypassMatch v => v == 1 || v == 2                                               -- R186, R189
  | .lineSettingsWrite v => decide (v.toNat / 8 % 4 ≠ 3)                                 -- R175
  | .holdLimitWrite v => decide (1 ≤ v.toNat) && decide (v.toNat ≤ 32)                   -- R104
  | .eventLevelWrite v => decide (v.toNat ≤ 4)                                           -- R119
  | .wakeFloorWrite v => decide (v.toNat ≤ 4)                                            -- R135
  | .pulseWidthWrite v => v != 0                                                         -- R139
  | .arbiterModeWrite v => decide (v.toNat ≤ 2)                                          -- R173
  | .classSelWrite v => decide (v.toNat ≤ 3)                                             -- R195
  | .classDataWrite v => decide (v.toNat ≤ 4)                                            -- R195
  | .chanSelWrite v => decide (v.toNat ≤ 3)                                              -- R193
  | _ => true

end Sys2Proof.Instr
end

