-- ==== Sys2Proof/Config.lean ====
section
/-! DEFINITION. What the part fixes once for all: the capacities and unit conversions of the manual.
The manual leaves no value of the part open to an implementation, so there is no free value here (NOTES.md,
'## Assumptions', says what it does leave open). -/

namespace Sys2Proof.Config

/-- R182: an input FIFO holds 0 to 8 raw entries. -/
abbrev fifoDepth : Nat := 8

/-- R44: the candidate set of a channel holds at most 12 candidates. -/
abbrev candidateMax : Nat := 12

/-- R88: a delivery queue holds at most 32 entries. -/
abbrev queueDepth : Nat := 32

/-- R123: the event queue holds 0 to 32 event records. -/
abbrev eventDepth : Nat := 32

/-- R39: the element pool has 512 element slots, E0 to E511. -/
abbrev poolSize : Nat := 512

/-- R26: a pattern has at most 16 elements. -/
abbrev lengthMax : Nat := 16

/-- R73: the gap and the tail window count units of 10 ms; so does a pulse width (R138). -/
abbrev shortUnit : Nat := 10

/-- R73: the lockout time counts units of 100 ms. -/
abbrev lockoutUnit : Nat := 100

/-- R192: the constant that IDENT reads. -/
abbrev ident : Byte := 0x4B

end Sys2Proof.Config
end

