-- ==== Sys2Proof/Machine/State.lean ====
section
/-! DEFINITION. Everything the part holds (spec/00_scope.md, section 2.1, and the rules named at each piece), the
lines it watches and drives, the queue of waiting commands, the reasons a step can stop, and the state after
device reset. -/

namespace Sys2Proof.Machine

/-- No command of this part ends in a fault: the manual gives every command an effect in every state. -/
inductive Fault where
  deriving DecidableEq, Repr

/-- Why a command has no meaning. -/
inductive Refusal where
  /-- Raised by an arm of exec for a row without a meaning (safe: the machine stops). No arm raises it. -/
  | notModelled (mnemonic : String)
  deriving DecidableEq, Repr

/-! ## Raw entries and symbols -/

/-- The two errors a receiver finds in a frame (R1). -/
inductive LineError where
  | parity
  | framing
  deriving DecidableEq, Repr

/-- Kind and value of a raw entry (R1). -/
inductive RawKind where
  | byte (value : Byte)
  | error (value : Byte) (type : LineError)
  | brk
  | line (num : LineNum) (active : Bool)
  deriving DecidableEq, Repr

/-- A raw entry with its stamp (R1). -/
structure RawEntry where
  kind : RawKind
  stamp : Time
  deriving DecidableEq, Repr

/-- The kind of a symbol (R2). -/
inductive SymbolKind where
  | data
  | brk
  | line
  | error
  deriving DecidableEq, Repr

/-- The extension of a symbol or of a pending prefix: NONE, A or B (R2, R8). -/
inductive Extension where
  | plain
  | a
  | b
  deriving DecidableEq, Repr

/-- The type of an ERROR symbol (R2). -/
inductive ErrorType where
  | parity
  | framing
  | overrun
  deriving DecidableEq, Repr

/-- The symbol record of R2. -/
structure Symbol where
  channel : Channel
  kind : SymbolKind
  code : Byte
  extension : Extension
  release : Bool
  errorType : Option ErrorType
  stamp : Time
  arrival : ArrivalNum
  deriving DecidableEq, Repr

/-! ## Receivers, class maps and assemblers of CH0–CH2 -/

/-- The class of a byte value (R6). -/
inductive ByteClass where
  | plain
  | leadA
  | leadB
  | release
  | drop
  deriving DecidableEq, Repr

/-- The parity setting of a receiver (R175). -/
inductive Parity where
  | off
  | even
  | odd
  deriving DecidableEq, Repr

/-- The reception state of a receiver (R175). -/
inductive Reception where
  | stopped
  | idle
  | frame
  | markWait
  deriving DecidableEq, Repr

/-- The three items of an assembler (R8). -/
structure Assembler where
  ext : Extension
  rel : Bool
  prefixStamp : Option Time
  deriving DecidableEq, Repr

/-- An assembler with no prefix pending (R9). -/
def Assembler.clear : Assembler := ⟨.plain, false, none⟩

/-- What one of CH0–CH2 has beyond the state of every channel: its receive line (true at mark), its receiver,
its assembler with the prefix window, and its class map. -/
structure Serial where
  rxMark : Bool
  baud : Fin 8
  parity : Parity
  reception : Reception
  assembler : Assembler
  prefixWindow : Byte
  classMap : Vector ByteClass 256
  deriving DecidableEq, Repr

/-! ## The line scanner of CH3 -/

/-- A pending change: the new raw level and the time of the raw change (R179). -/
structure PendingChange where
  level : LineLevel
  time : Time
  deriving DecidableEq, Repr

/-- One of L0–L7: its raw level, enable, polarity, debounced level (kept while enabled) and pending change (R179). -/
structure Line where
  raw : LineLevel
  enabled : Bool
  activeHigh : Bool
  debounced : Option LineLevel
  change : Option PendingChange
  deriving DecidableEq, Repr

/-! ## Match contexts, delivery and the channels -/

/-- A channel's mode (R186): OFF, BYPASS or MATCH. -/
inductive Mode where
  | off
  | bypass
  | matching
  deriving DecidableEq, Repr

/-- A live partial match (R43). -/
structure Candidate where
  pattern : PatternNum
  position : Nat
  deadline : Option Time
  birth : ArrivalNum
  deriving DecidableEq, Repr

/-- A lockout record (R46). -/
structure Lockout where
  pattern : PatternNum
  expiry : Time
  deriving DecidableEq, Repr

/-- A tail record (R100): `expiry` is absent when it was set with tail window 0. -/
structure Tail where
  count : Nat
  expiry : Option Time
  deriving DecidableEq, Repr

/-- One channel: mode, input FIFO with its flags, ready slot, arrival counter, match context, delivery queue with
its latches, and the channel's bytes of the configuration space that every channel has. -/
structure Chan where
  mode : Mode
  fifo : List RawEntry
  overrunPending : Bool
  injectRefused : Bool
  ready : Option Symbol
  arrivalCounter : ArrivalNum
  candidates : List Candidate
  lockouts : List Lockout
  tail : Option Tail
  queue : List Symbol
  latch : Option Symbol
  lost : Bool
  holdLimit : Nat
  tailWindow : Byte
  deriving DecidableEq, Repr

/-! ## The pattern memory -/

/-- The kind of an element (R34). -/
inductive ElementKind where
  | symbol
  | any
  | brk
  deriving DecidableEq, Repr

/-- The extension test of an element (R34). -/
inductive ExtensionTest where
  | plain
  | a
  | b
  | either
  deriving DecidableEq, Repr

/-- The release test of an element (R34). -/
inductive ReleaseTest where
  | press
  | release
  | either
  deriving DecidableEq, Repr

/-- An element as stored, all five fields whatever the kind (R34). -/
structure Element where
  kind : ElementKind
  code : Byte
  width : Fin 16
  extension : ExtensionTest
  release : ReleaseTest
  deriving DecidableEq, Repr

/-- What an element slot that no DEFINE has written holds; nothing reads it (R39). -/
def Element.blank : Element := ⟨.symbol, 0, 0, .plain, .press⟩

/-- The mode of a completion action (R33). -/
inductive ActionMode where
  | set
  | clear
  | toggle
  | pulse
  deriving DecidableEq, Repr

/-- The host's fields of a pattern record (the table of section 2.2), as the staging record gives them. -/
structure Pattern where
  /-- bit n lists CHn -/
  channels : BitVec 4
  level : EventLevel
  length : Nat
  tag : Byte
  gap : Byte
  /-- PRESS_ONLY rather than EXACT -/
  pressOnly : Bool
  swallow : Bool
  tail : Fin 8
  /-- LOCKOUT rather than RESTART -/
  lockout : Bool
  threshold : Fin 16
  lockoutTime : Byte
  /-- ONE_SHOT rather than REPEAT -/
  oneShot : Bool
  clearOnComplete : Bool
  actionOutput : Option OutputNum
  actionMode : ActionMode
  deriving DecidableEq, Repr

/-- A pattern record: the host's fields and the start, which the part writes (R26). -/
structure Stored where
  pattern : Pattern
  start : Nat
  deriving DecidableEq, Repr

/-- A pattern slot (R22); the record of a FREE slot holds no values (R24). -/
inductive Slot where
  | free
  | disarmed (r : Stored)
  | armed (r : Stored)
  deriving DecidableEq, Repr

/-! ## Events, outputs, table controller and arbiter -/

/-- The kinds of event, in code order (R117). -/
inductive EventKind where
  | matched
  | lockout
  | holdCancel
  | spawnRefused
  | deliveryLost
  | inputOverrun
  | lineError
  | compactDone
  deriving DecidableEq, Repr

/-- An event record (R116). -/
structure EventRecord where
  seq : Byte
  kind : EventKind
  level : EventLevel
  channel : Option Channel
  pattern : Option PatternNum
  tag : Option Byte
  stamp : Half
  deriving DecidableEq, Repr

/-- An action output: level, pulse deadline and pulse width in units of 10 ms (R138). -/
structure Output where
  level : LineLevel
  deadline : Option Time
  width : Byte
  deriving DecidableEq, Repr

/-- The result codes of R152. -/
inductive Result where
  | none
  | ok
  | busy
  | badSlot
  | badState
  | noSpace
  | badRecord
  | badCommand
  | started
  deriving DecidableEq, Repr

/-- The two claimants of the pattern memory (section 9.3). -/
inductive Claimant where
  | matchUnit
  | table
  deriving DecidableEq, Repr

/-- The arbiter's modes (R172). -/
inductive ArbiterMode where
  | matchFirst
  | tableFirst
  | alternate
  deriving DecidableEq, Repr

/-- Where the pattern memory stands: nobody has it; the arbiter has granted it to a claimant, and the event of that
grant is what whatever comes next finds taken; or that event has been taken and the grant still holds the memory (R172,
log entry 4). -/
inductive Grant where
  | free
  | decided (c : Claimant)
  | held (c : Claimant)
  deriving DecidableEq, Repr

/-- The state of the part, of its lines, and of the queue of commands waiting. -/
structure State where
  /-- the RESET line is asserted (R191) -/
  inReset : Bool
  /-- the byte that the last read command drove on D0–D7 (R191) -/
  dataOut : Byte
  serial : Vector Serial 3
  lines : Vector Line 8
  /-- DEBOUNCE, in ms (R179) -/
  debounce : Byte
  chans : Vector Chan 4
  slots : Vector Slot 64
  pool : Vector Element 512
  /-- the channel the match unit served last (R48) -/
  lastServed : Channel
  /-- the event queue, oldest first (R123) -/
  eventQueue : List EventRecord
  presented : Option EventRecord
  lostMask : Vector Bool 4
  eventSeq : Byte
  /-- the event-level table of kinds 1–7; `none` is OFF (R119) -/
  eventLevels : Vector (Option EventLevel) 7
  intEnable : Bool
  intFloor : EventLevel
  /-- 0–3, or 4 for never (R135) -/
  wakeFloor : Fin 5
  intLine : Bool
  wakeLine : Bool
  outputs : Vector Output 4
  staging : Vector Byte 58
  stageAddr : Fin 58
  operand : Byte
  pendingCommand : Option Byte
  lastCommand : Option Byte
  result : Result
  compacting : Bool
  arbiterMode : ArbiterMode
  lastGrant : Claimant
  grant : Grant
  timeBase : Time
  chanSel : Channel
  configAddr : Fin 64
  classSel : Fin 4
  classAddr : Byte
  /-- the commands that wait, first in, first out -/
  pending : List Instr
  deriving DecidableEq, Repr

/-! ## Device reset -/

/-- One of CH0–CH2 after device reset, with its receive line at the level given (R6, R9, R14, R175). -/
def Serial.reset (rxMark : Bool) : Serial where
  rxMark := rxMark
  baud := 3
  parity := .off
  reception := .stopped
  assembler := .clear
  prefixWindow := 20
  classMap := Vector.replicate 256 .plain

/-- A discrete line after device reset, with its raw level given (R179). -/
def Line.reset (raw : LineLevel) : Line where
  raw := raw
  enabled := false
  activeHigh := false
  debounced := none
  change := none

/-- A channel after device reset (R3, R4, R42, R89, R104, R182, R184, R186). -/
def Chan.reset : Chan where
  mode := .off
  fifo := []
  overrunPending := false
  injectRefused := false
  ready := none
  arrivalCounter := 0
  candidates := []
  lockouts := []
  tail := none
  queue := []
  latch := none
  lost := false
  holdLimit := 16
  tailWindow := 100

/-- An action output after device reset (R138). -/
def Output.reset : Output where
  level := .low
  deadline := none
  width := 10

/-- The machine right after device reset, RESET released, nothing waiting. The levels on the receive and discrete
lines are the equipment's, not the part's; here mark and HIGH (log entry 2). The pattern memory is free (log
entry 20). -/
def State.reset : State where
  inReset := false
  dataOut := 0
  serial := Vector.replicate 3 (Serial.reset true)
  lines := Vector.replicate 8 (Line.reset .high)
  debounce := 10
  chans := Vector.replicate 4 Chan.reset
  slots := Vector.replicate 64 .free
  pool := Vector.replicate 512 Element.blank
  lastServed := 3
  eventQueue := []
  presented := none
  lostMask := Vector.replicate 4 false
  eventSeq := 0
  eventLevels := Vector.replicate 7 none
  intEnable := false
  intFloor := 0
  wakeFloor := 4
  intLine := false
  wakeLine := false
  outputs := Vector.replicate 4 Output.reset
  staging := Vector.replicate 58 0
  stageAddr := 0
  operand := 0
  pendingCommand := none
  lastCommand := none
  result := .none
  compacting := false
  arbiterMode := .matchFirst
  lastGrant := .matchUnit
  grant := .free
  timeBase := 0
  chanSel := 0
  configAddr := 0
  classSel := 0
  classAddr := 0
  pending := []

end Sys2Proof.Machine
end

