-- ==== Sys2Proof/Machine/Operands.lean ====
section
/-! DEFINITION. The byte layouts of chapter 11: how a written byte or the staging record is read as the values the
rules speak of, and how those values are shown as bytes. Pure functions; no command is run here. -/

namespace Sys2Proof.Machine

/-! ## Bits and fields of a byte -/

/-- Bit `i` of a byte. -/
def bitAt (b : Byte) (i : Nat) : Bool := b.getLsbD i

/-- The `w` bits of a byte from bit `lo` up, as a number. -/
def fieldAt (b : Byte) (lo w : Nat) : Nat := b.toNat / 2 ^ lo % 2 ^ w

/-- A number as a byte. -/
def byteOf (n : Nat) : Byte := BitVec.ofNat 8 n

/-- A flag shown at bit `i`. -/
def flagBit (f : Bool) (i : Nat) : Nat := if f then 2 ^ i else 0

/-- The low 16 bits of a stamp (R116). -/
def lowHalf (t : Time) : Half := BitVec.ofNat 16 t

/-- The low byte of a half word, for the LO registers of R198 and R199. -/
def loByte (h : Half) : Byte := byteOf h.toNat

/-- The high byte of a half word, for the HI registers. -/
def hiByte (h : Half) : Byte := byteOf (h.toNat / 256)

/-! ## Configuration bytes (R194) -/

/-- Which byte of the configuration space an address names. -/
inductive ConfigByte where
  | mode (ch : Channel)
  | lineSettings (ch : SerialChannel)
  | prefixWindow (ch : SerialChannel)
  | holdLimit (ch : Channel)
  | tailWindow (ch : Channel)
  | linesEnable
  | linesPolarity
  | debounce
  | eventLevel (k : Fin 7)
  | intCtrl
  | wakeFloor
  | pulseWidth (out : OutputNum)
  | arbiterMode
  | unused
  deriving DecidableEq, Repr

/-- The table of R194. -/
def configTarget (a : Fin 64) : ConfigByte :=
  if h : a.val < 0x04 then .mode ⟨a.val, h⟩
  else if h : a.val < 0x07 then .lineSettings ⟨a.val - 0x04, by omega⟩
  else if h : a.val < 0x0A then .prefixWindow ⟨a.val - 0x07, by omega⟩
  else if h : a.val < 0x0E then .holdLimit ⟨a.val - 0x0A, by omega⟩
  else if h : a.val < 0x12 then .tailWindow ⟨a.val - 0x0E, by omega⟩
  else if a.val = 0x12 then .linesEnable
  else if a.val = 0x13 then .linesPolarity
  else if a.val = 0x14 then .debounce
  else if h : a.val < 0x1C then .eventLevel ⟨a.val - 0x15, by omega⟩
  else if a.val = 0x1C then .intCtrl
  else if a.val = 0x1D then .wakeFloor
  else if h : a.val < 0x22 then .pulseWidth ⟨a.val - 0x1E, by omega⟩
  else if a.val = 0x22 then .arbiterMode
  else .unused

/-- R186: 0 OFF, 1 BYPASS, 2 MATCH; any other value is not accepted. -/
def modeOf? (v : Byte) : Option Mode :=
  match v.toNat with
  | 0 => some .off
  | 1 => some .bypass
  | 2 => some .matching
  | _ => none

/-- The MODE byte. -/
def modeByte : Mode → Byte
  | .off => 0
  | .bypass => 1
  | .matching => 2

/-- R175: parity code 3 names no parity. -/
def parityOf? (code : Nat) : Option Parity :=
  match code with
  | 0 => some .off
  | 1 => some .even
  | 2 => some .odd
  | _ => none

/-- The parity code. -/
def parityCode : Parity → Nat
  | .off => 0
  | .even => 1
  | .odd => 2

/-- The baud code of a LINE_SETTINGS byte, bits 0–2 (R194). -/
def baudOf (v : Byte) : Fin 8 := ⟨fieldAt v 0 3, Nat.mod_lt _ (by decide)⟩

/-- The LINE_SETTINGS byte as it reads. -/
def lineSettingsByte (baud : Fin 8) (parity : Parity) : Byte := byteOf (baud.val + 8 * parityCode parity)

/-- R119: 0–3 a level, 4 OFF; any other value is not accepted. -/
def eventLevelOf? (v : Byte) : Option (Option EventLevel) :=
  match v.toNat with
  | 0 => some (some 0)
  | 1 => some (some 1)
  | 2 => some (some 2)
  | 3 => some (some 3)
  | 4 => some none
  | _ => none

/-- The EVENT_LEVEL byte. -/
def eventLevelByte : Option EventLevel → Byte
  | some l => byteOf l.val
  | none => 4

/-- The floor of an INT_CTRL byte, bits 0–1 (R194). -/
def intFloorOf (v : Byte) : EventLevel := ⟨fieldAt v 0 2, Nat.mod_lt _ (by decide)⟩

/-- The INT_CTRL byte as it reads. -/
def intCtrlByte (enable : Bool) (floor : EventLevel) : Byte := byteOf (floor.val + flagBit enable 7)

/-- R173: 0 MATCH_FIRST, 1 TABLE_FIRST, 2 ALTERNATE; any other value is not accepted. -/
def arbiterModeOf? (v : Byte) : Option ArbiterMode :=
  match v.toNat with
  | 0 => some .matchFirst
  | 1 => some .tableFirst
  | 2 => some .alternate
  | _ => none

/-- The ARBITER_MODE byte. -/
def arbiterModeByte : ArbiterMode → Byte
  | .matchFirst => 0
  | .tableFirst => 1
  | .alternate => 2

/-- R195: the class codes 0–4; any other value is not accepted. -/
def classOf? (v : Byte) : Option ByteClass :=
  match v.toNat with
  | 0 => some .plain
  | 1 => some .leadA
  | 2 => some .leadB
  | 3 => some .release
  | 4 => some .drop
  | _ => none

/-- The class code of R195. -/
def classByte : ByteClass → Byte
  | .plain => 0
  | .leadA => 1
  | .leadB => 2
  | .release => 3
  | .drop => 4

/-! ## Injection (R184, R197) -/

/-- The raw entry kind that a byte written to INJECT makes on a channel. -/
def injectedKind (ch : Channel) (v : Byte) : RawKind :=
  if ch = 3 then .line ⟨fieldAt v 0 3, Nat.mod_lt _ (by decide)⟩ (bitAt v 7) else .byte v

/-! ## Frames (R176) -/

/-- How many data and parity bits of a frame are at mark. -/
def frameMarks (f : Frame) : Nat :=
  ((List.range 8).filter (fun i => bitAt f.data i)).length + (if f.parityMark then 1 else 0)

/-- Every sample of the frame found space. -/
def frameAllSpace (f : Frame) (p : Parity) : Bool :=
  f.data == 0 && !f.stopMark && (p == .off || !f.parityMark)

/-- The parity error of R176. -/
def frameParityWrong (f : Frame) (p : Parity) : Bool :=
  match p with
  | .off => false
  | .even => frameMarks f % 2 == 1
  | .odd => frameMarks f % 2 == 0

/-- The first case of R176's table that applies. -/
def judgeFrame (f : Frame) (p : Parity) : RawKind :=
  if frameAllSpace f p then .brk
  else if !f.stopMark then .error f.data .framing
  else if frameParityWrong f p then .error f.data .parity
  else .byte f.data

/-! ## The staging record (section 11.4.5, R38, R201) -/

/-- The action output code of byte 5: 0 NONE, 1–4 OUT0–OUT3, 5–7 no value. -/
def actionOutputOf? (code : Nat) : Option (Option OutputNum) :=
  match code with
  | 0 => some none
  | 1 => some (some 0)
  | 2 => some (some 1)
  | 3 => some (some 2)
  | 4 => some (some 3)
  | _ => none

/-- The action output code. -/
def actionOutputCode : Option OutputNum → Nat
  | none => 0
  | some o => o.val + 1

/-- The action mode code of byte 7, two bits, every value named. -/
def actionModeOf (code : Nat) : ActionMode :=
  match code with
  | 0 => .set
  | 1 => .clear
  | 2 => .toggle
  | _ => .pulse

/-- The action mode code. -/
def actionModeCode : ActionMode → Nat
  | .set => 0
  | .clear => 1
  | .toggle => 2
  | .pulse => 3

/-- The element kind code: 3 is no value. -/
def elementKindOf? (code : Nat) : Option ElementKind :=
  match code with
  | 0 => some .symbol
  | 1 => some .any
  | 2 => some .brk
  | _ => none

/-- The element kind code. -/
def elementKindCode : ElementKind → Nat
  | .symbol => 0
  | .any => 1
  | .brk => 2

/-- The extension test code, two bits, every value named. -/
def extensionTestOf (code : Nat) : ExtensionTest :=
  match code with
  | 0 => .plain
  | 1 => .a
  | 2 => .b
  | _ => .either

/-- The extension test code. -/
def extensionTestCode : ExtensionTest → Nat
  | .plain => 0
  | .a => 1
  | .b => 2
  | .either => 3

/-- The release test code: 3 is no value. -/
def releaseTestOf? (code : Nat) : Option ReleaseTest :=
  match code with
  | 0 => some .press
  | 1 => some .release
  | 2 => some .either
  | _ => none

/-- The release test code. -/
def releaseTestCode : ReleaseTest → Nat
  | .press => 0
  | .release => 1
  | .either => 2

/-- A byte of the staging record by its address. -/
def stagedByte (r : Vector Byte 58) (a : Nat) : Byte := (r[a]?).getD 0

/-- The header of the staging record, unless a coded field holds a code that names no value. -/
def decodeHeader? (r : Vector Byte 58) : Option Pattern :=
  (actionOutputOf? (fieldAt (stagedByte r 5) 4 3)).map fun output =>
    { channels := BitVec.ofNat 4 (fieldAt (stagedByte r 0) 0 4)
      level := ⟨fieldAt (stagedByte r 0) 4 2, Nat.mod_lt _ (by decide)⟩
      length := fieldAt (stagedByte r 1) 0 5
      tag := stagedByte r 2
      gap := stagedByte r 3
      pressOnly := bitAt (stagedByte r 4) 0
      swallow := bitAt (stagedByte r 4) 1
      tail := ⟨fieldAt (stagedByte r 4) 2 3, Nat.mod_lt _ (by decide)⟩
      lockout := bitAt (stagedByte r 4) 5
      oneShot := bitAt (stagedByte r 4) 6
      clearOnComplete := bitAt (stagedByte r 4) 7
      threshold := ⟨fieldAt (stagedByte r 5) 0 4, Nat.mod_lt _ (by decide)⟩
      actionOutput := output
      lockoutTime := stagedByte r 6
      actionMode := actionModeOf (fieldAt (stagedByte r 7) 0 2) }

/-- Element triple `k` of the staging record, unless a coded field holds a code that names no value. -/
def decodeElement? (r : Vector Byte 58) (k : Nat) : Option Element :=
  match elementKindOf? (fieldAt (stagedByte r (11 + 3 * k)) 0 2),
        releaseTestOf? (fieldAt (stagedByte r (11 + 3 * k)) 4 2) with
  | some kind, some test =>
    some { kind := kind
           code := stagedByte r (10 + 3 * k)
           width := ⟨fieldAt (stagedByte r (12 + 3 * k)) 0 4, Nat.mod_lt _ (by decide)⟩
           extension := extensionTestOf (fieldAt (stagedByte r (11 + 3 * k)) 2 2)
           release := test }
  | _, _ => none

/-- R38's conditions on the header. -/
def Pattern.valid (p : Pattern) : Bool :=
  decide (1 ≤ p.length) && decide (p.length ≤ Config.lengthMax) && p.channels != 0
    && (!p.lockout || (decide (1 ≤ p.threshold.val) && decide (p.threshold.val < p.length) && p.lockoutTime != 0))
    && (p.tail == 0 || p.swallow)

/-- R38's conditions on one of the first `length` elements. -/
def Element.validIn (p : Pattern) (e : Element) : Bool :=
  (e.kind != .symbol || (decide (1 ≤ e.width.val) && decide (e.width.val ≤ 8)))
    && !(p.pressOnly && e.release == .release)

/-- Every triple of a list of element numbers, unless one of them holds an undefined code. -/
def decodeElements? (r : Vector Byte 58) : List Nat → Option (List Element)
  | [] => some []
  | k :: ks =>
    match decodeElement? r k, decodeElements? r ks with
    | some e, some es => some (e :: es)
    | _, _ => none

/-- The pattern and elements of the staging record when they are valid (R38, R153, R201). -/
def stagedPattern? (r : Vector Byte 58) : Option (Pattern × List Element) :=
  match decodeHeader? r with
  | none => none
  | some p =>
    if p.valid then
      match decodeElements? r (List.range p.length) with
      | some es => if es.all (Element.validIn p) then some (p, es) else none
      | none => none
    else none

/-- The ten header bytes that READ_BACK writes (R160, R201): unused bits 0, the start in bytes 8 and 9. -/
def headerBytes (p : Pattern) (start : Nat) : List Byte :=
  [ byteOf (p.channels.toNat + 16 * p.level.val),
    byteOf p.length,
    p.tag,
    p.gap,
    byteOf (flagBit p.pressOnly 0 + flagBit p.swallow 1 + 4 * p.tail.val + flagBit p.lockout 5
      + flagBit p.oneShot 6 + flagBit p.clearOnComplete 7),
    byteOf (p.threshold.val + 16 * actionOutputCode p.actionOutput),
    p.lockoutTime,
    byteOf (actionModeCode p.actionMode),
    byteOf start,
    byteOf (start / 256) ]

/-- The three bytes of an element triple. -/
def elementBytes (e : Element) : List Byte :=
  [ e.code,
    byteOf (elementKindCode e.kind + 4 * extensionTestCode e.extension + 16 * releaseTestCode e.release),
    byteOf e.width.val ]

/-- The staging record that READ_BACK leaves: the header, the triples of the elements, zero beyond them. -/
def encodeRecord (p : Pattern) (start : Nat) (es : List Element) : Vector Byte 58 :=
  Vector.ofFn fun i => ((headerBytes p start ++ es.flatMap elementBytes)[i.val]?).getD 0

end Sys2Proof.Machine
end

