-- ==== Sys2Proof/Machine/Flags.lean ====
section
/-! DEFINITION. What the state shows and decides, without changing it: when an element matches, the hold boundary,
what waits on a channel, who claims the pattern memory, the INT and WAKE conditions, the element pool's gaps, and
every register a host can read. -/

namespace Sys2Proof.Machine

/-! ## Pieces of the state by number -/

/-- The state of a channel. -/
def State.chan (s : State) (ch : Channel) : Chan := s.chans[ch]

/-- The serial part of one of CH0–CH2. -/
def State.ser (s : State) (i : SerialChannel) : Serial := s.serial[i]

/-- A discrete line. -/
def State.line (s : State) (n : LineNum) : Line := s.lines[n]

/-- A pattern slot. -/
def State.slot (s : State) (n : PatternNum) : Slot := s.slots[n]

/-- An action output. -/
def State.output (s : State) (o : OutputNum) : Output := s.outputs[o]

/-- One of CH0–CH2 as a channel. -/
def serialChannel (i : SerialChannel) : Channel := i.castSucc

/-- CH3, the channel of the line scanner. -/
def lineChannel : Channel := 3

/-- The serial part of a channel, absent on CH3 (R21: CH3 has no assembler). -/
def serialOf? (ch : Channel) : Option SerialChannel := if h : ch.val < 3 then some ⟨ch.val, h⟩ else none

/-- CH0 to CH3 in order. -/
def allChannels : List Channel := [0, 1, 2, 3]

/-- L0 to L7 in order. -/
def allLines : List LineNum := [0, 1, 2, 3, 4, 5, 6, 7]

/-- OUT0 to OUT3 in order. -/
def allOutputs : List OutputNum := [0, 1, 2, 3]

/-- P0 to P63 in pattern-number order (R22). -/
def allPatterns : List PatternNum := List.finRange 64

/-! ## The pattern table and the element pool -/

/-- The record of a slot that is not FREE. -/
def Slot.record? : Slot → Option Stored
  | .free => none
  | .disarmed r => some r
  | .armed r => some r

/-- The record of an ARMED slot. -/
def Slot.armed? : Slot → Option Stored
  | .free => none
  | .disarmed _ => none
  | .armed r => some r

/-- A slot with an ARMED record made DISARMED (R23). -/
def Slot.disarm : Slot → Slot
  | .free => .free
  | .disarmed r => .disarmed r
  | .armed r => .disarmed r

/-- The run of a record holds the element address `a` (R39). -/
def Stored.covers (r : Stored) (a : Nat) : Bool := decide (r.start ≤ a) && decide (a < r.start + r.pattern.length)

/-- The run of a slot holds the element address `a`. -/
def Slot.covers (sl : Slot) (a : Nat) : Bool :=
  match sl.record? with
  | some r => r.covers a
  | none => false

/-- Some run holds the element address `a` (R39). -/
def State.allocated (s : State) (a : Nat) : Bool := allPatterns.any fun n => (s.slot n).covers a

/-- Some run of another slot than `n` holds the element address `a`: the search of R40. -/
def State.allocatedBut (s : State) (n : PatternNum) (a : Nat) : Bool :=
  allPatterns.any fun m => m != n && (s.slot m).covers a

/-- The first-fit start of a run of length `len` for slot `n`, the slot's own run counted as free (R40). -/
def State.firstFit (s : State) (n : PatternNum) (len : Nat) : Option Nat :=
  (List.range Config.poolSize).find? fun a =>
    decide (a + len ≤ Config.poolSize) && (List.range len).all fun k => !s.allocatedBut n (a + k)

/-- The first free address, 512 when the pool is full (R164). -/
def State.firstFree (s : State) : Nat :=
  ((List.range Config.poolSize).find? fun a => !s.allocated a).getD Config.poolSize

/-- The start of a slot whose run is out of place (R164). -/
def State.displacedStart? (s : State) (n : PatternNum) : Option Nat :=
  match (s.slot n).record? with
  | some r => if s.firstFree < r.start then some r.start else none
  | none => none

/-- Among the slots of a list whose runs are out of place, the one with the lowest start. -/
def State.lowestDisplaced (s : State) : List PatternNum → Option (PatternNum × Nat)
  | [] => none
  | n :: ns =>
    match s.displacedStart? n, s.lowestDisplaced ns with
    | none, best => best
    | some a, none => some (n, a)
    | some a, some (m, b) => if a ≤ b then some (n, a) else some (m, b)

/-- The slot whose run a move takes: out of place, with the lowest start (R167). -/
def State.nextMove? (s : State) : Option PatternNum := (s.lowestDisplaced allPatterns).map (·.1)

/-- The element at a pool address. -/
def State.elementAt (s : State) (a : Nat) : Element := (s.pool[a]?).getD Element.blank

/-- The elements of a run, element 0 first. -/
def State.runElements (s : State) (r : Stored) : List Element :=
  (List.range r.pattern.length).map fun k => s.elementAt (r.start + k)

/-! ## When an element matches a symbol (R35–R37) -/

/-- R36: the codes agree in the top `width` bits. -/
def codesAgree (e : Element) (code : Byte) : Bool :=
  decide (e.code.toNat / 2 ^ (8 - e.width.val) = code.toNat / 2 ^ (8 - e.width.val))

/-- R37: the extension test. -/
def ExtensionTest.accepts : ExtensionTest → Extension → Bool
  | .plain, x => x == .plain
  | .a, x => x == .a
  | .b, x => x == .b
  | .either, _ => true

/-- R37: the release test. -/
def ReleaseTest.accepts : ReleaseTest → Bool → Bool
  | .press, x => !x
  | .release, x => x
  | .either, _ => true

/-- The tests of a SYMBOL element on a DATA or LINE symbol. -/
def testsPass (e : Element) (x : Symbol) : Bool :=
  codesAgree e x.code && e.extension.accepts x.extension && e.release.accepts x.release

/-- R35's table. -/
def elementMatches (e : Element) (x : Symbol) : Bool :=
  match e.kind, x.kind with
  | .symbol, .data => testsPass e x
  | .symbol, .line => testsPass e x
  | .symbol, .brk => false
  | .any, .data => true
  | .any, .line => true
  | .any, .brk => true
  | .brk, .brk => true
  | .brk, .data => false
  | .brk, .line => false
  | _, .error => false

/-- A deadline set from a symbol's stamp: absent when the gap is 0 (R77). -/
def gapDeadline (p : Pattern) (stamp : Time) : Option Time :=
  if p.gap = 0 then none else some (stamp + Config.shortUnit * p.gap.toNat)

/-! ## Holding (R45, R91) -/

/-- The pattern of a slot is swallowing. -/
def State.swallows (s : State) (n : PatternNum) : Bool :=
  match (s.slot n).record? with
  | some r => r.pattern.swallow
  | none => false

/-- A swallowing candidate (R43). -/
def State.swallowing (s : State) (c : Candidate) : Bool := s.swallows c.pattern

/-- The hold boundary: the smallest birth among the live swallowing candidates (R45). -/
def State.boundary (s : State) (ch : Channel) : Option ArrivalNum :=
  (((s.chan ch).candidates.filter s.swallowing).map (·.birth)).min?

/-- An entry is held when its arrival number is at or after the boundary (R91). -/
def heldBy (boundary : Option ArrivalNum) (x : Symbol) : Bool :=
  match boundary with
  | none => false
  | some b => decide (b ≤ x.arrival)

/-- The held count (R91). -/
def State.heldCount (s : State) (ch : Channel) : Nat :=
  ((s.chan ch).queue.filter (heldBy (s.boundary ch))).length

/-! ## Waiting and taking -/

/-- R8: a prefix is pending. -/
def Assembler.hasPrefix (a : Assembler) : Bool := a.ext != .plain || a.rel

/-- R14: the deadline of a pending prefix under a window; absent when none is pending or the window is 0. -/
def Serial.prefixDeadline (x : Serial) : Option Time :=
  if x.assembler.hasPrefix && x.prefixWindow != 0 then
    x.assembler.prefixStamp.map (· + x.prefixWindow.toNat)
  else none

/-- The stamp of a pending prefix of a channel (R74). -/
def State.prefixStampOf (s : State) (ch : Channel) : Option Time :=
  match serialOf? ch with
  | some i => if (s.ser i).assembler.hasPrefix then (s.ser i).assembler.prefixStamp else none
  | none => none

/-- A time, when present, at or before `d`. -/
def atOrBefore (t : Option Time) (d : Time) : Bool :=
  match t with
  | some x => decide (x ≤ d)
  | none => false

/-- Something waits on the channel at or before `d` (R74). -/
def State.waitingBy (s : State) (ch : Channel) (d : Time) : Bool :=
  (s.chan ch).fifo.any (fun e => decide (e.stamp ≤ d))
    || atOrBefore (s.prefixStampOf ch) d
    || atOrBefore ((s.chan ch).ready.map (·.stamp)) d

/-- R75: the expiry of the deadline `d` of a channel's context can be taken. -/
def State.expirable (s : State) (ch : Channel) (d : Time) : Bool :=
  decide (d < s.timeBase) && !s.waitingBy ch d

/-- R5: the channel can take from its FIFO. -/
def State.canTake (s : State) (ch : Channel) : Bool :=
  (s.chan ch).mode != .off && (s.chan ch).ready.isNone && !(s.chan ch).fifo.isEmpty

/-- The head entry that a channel takes: R5's conditions hold and no overrun is pending (R20 comes first). -/
def State.takeable? (s : State) (ch : Channel) : Option RawEntry :=
  if s.canTake ch && !(s.chan ch).overrunPending then (s.chan ch).fifo.head? else none

/-! ## The match unit's and the table controller's claims -/

/-- R47: the channel is ready. -/
def State.isReady (s : State) (ch : Channel) : Bool := (s.chan ch).mode == .matching && (s.chan ch).ready.isSome

/-- R47: the match unit claims the pattern memory. -/
def State.matchClaims (s : State) : Bool := allChannels.any s.isReady

/-- R166: the table controller claims the pattern memory, for its pending command or for the next step. -/
def State.tableClaims (s : State) : Bool := s.pendingCommand.isSome || s.compacting

/-- R48: the first ready channel after the one served last, in cyclic order. -/
def State.nextReady? (s : State) : Option Channel :=
  [s.lastServed + 1, s.lastServed + 2, s.lastServed + 3, s.lastServed].find? s.isReady

/-- R172: whom the arbiter grants, given who claims. -/
def State.decision (s : State) : Option Claimant :=
  match s.matchClaims, s.tableClaims with
  | false, false => none
  | true, false => some .matchUnit
  | false, true => some .table
  | true, true =>
    match s.arbiterMode with
    | .matchFirst => some .matchUnit
    | .tableFirst => some .table
    | .alternate => some (match s.lastGrant with | .matchUnit => .table | .table => .matchUnit)

/-! ## Events, INT and WAKE -/

/-- The code of an event kind (R117). -/
def EventKind.code : EventKind → Nat
  | .matched => 0
  | .lockout => 1
  | .holdCancel => 2
  | .spawnRefused => 3
  | .deliveryLost => 4
  | .inputOverrun => 5
  | .lineError => 6
  | .compactDone => 7

/-- The event-level table's entry for a kind, absent for MATCH (R119). -/
def EventKind.entry? : EventKind → Option (Fin 7)
  | .matched => none
  | .lockout => some 0
  | .holdCancel => some 1
  | .spawnRefused => some 2
  | .deliveryLost => some 3
  | .inputOverrun => some 4
  | .lineError => some 5
  | .compactDone => some 6

/-- The level that the event-level table gives a kind: absent when the entry is OFF (R118). -/
def State.tableLevel (s : State) (k : EventKind) : Option EventLevel :=
  match k.entry? with
  | some i => s.eventLevels[i]
  | none => none

/-- The INT condition (R133). -/
def State.intCondition (s : State) : Bool :=
  s.eventQueue.any fun e => e.level == 3 || (s.intEnable && decide (s.intFloor ≤ e.level))

/-- The WAKE condition (R133). -/
def State.wakeCondition (s : State) : Bool :=
  s.eventQueue.any fun e => decide (s.wakeFloor.val ≤ e.level.val)

/-- The highest level in a list of events. -/
def highestLevel (q : List EventRecord) : EventLevel := q.foldl (fun m e => max m e.level) 0

/-- The lowest level in a list of events. -/
def lowestLevel (q : List EventRecord) : EventLevel := q.foldl (fun m e => min m e.level) 3

/-- The best event: of the highest level present, the oldest (R123). -/
def bestEvent? (q : List EventRecord) : Option EventRecord := q.find? fun e => e.level == highestLevel q

/-- A queue without its best event. -/
def withoutBest (q : List EventRecord) : List EventRecord := q.eraseP fun e => e.level == highestLevel q

/-- A queue without the youngest event of its lowest level (R123). -/
def withoutYoungestLowest (q : List EventRecord) : List EventRecord :=
  (q.reverse.eraseP fun e => e.level == lowestLevel q).reverse

/-! ## What the host reads (R192–R202) -/

/-- The code of a symbol kind (R198). -/
def symbolKindCode : SymbolKind → Nat
  | .data => 0
  | .brk => 1
  | .line => 2
  | .error => 3

/-- The code of an extension (R198). -/
def extensionCode : Extension → Nat
  | .plain => 0
  | .a => 1
  | .b => 2

/-- The code of an error type, 0 for none (R198). -/
def errorTypeCode : Option ErrorType → Nat
  | none => 0
  | some .parity => 1
  | some .framing => 2
  | some .overrun => 3

/-- The result codes of R202. -/
def resultCode : Result → Byte
  | .none => 0
  | .ok => 1
  | .busy => 2
  | .badSlot => 3
  | .badState => 4
  | .noSpace => 5
  | .badRecord => 6
  | .badCommand => 7
  | .started => 8

/-- STATUS (R196). -/
def State.statusByte (s : State) : Byte :=
  byteOf (flagBit s.compacting 0 + flagBit s.pendingCommand.isSome 1 + flagBit (!s.eventQueue.isEmpty) 2
    + flagBit s.intLine 3 + flagBit s.wakeLine 4)

/-- CHAN_STATUS of a channel (R196). -/
def State.chanStatusByte (s : State) (ch : Channel) : Byte :=
  byteOf (flagBit (s.chan ch).lost 0 + flagBit (s.chan ch).injectRefused 1 + flagBit (s.chan ch).tail.isSome 2
    + flagBit (s.chan ch).overrunPending 3 + 16 * (s.chan ch).candidates.length)

/-- LOST (R196). -/
def State.lostByte (s : State) : Byte :=
  byteOf (flagBit s.lostMask[0] 0 + flagBit s.lostMask[1] 1 + flagBit s.lostMask[2] 2 + flagBit s.lostMask[3] 3)

/-- OUTPUTS as read (R197). -/
def State.outputsByte (s : State) : Byte :=
  byteOf ((allOutputs.map fun o =>
    flagBit ((s.output o).level == .high) o.val + flagBit (s.output o).deadline.isSome (o.val + 4)).sum)

/-- LATCH_FLAGS while the latch holds `x` (R198). -/
def latchFlags (x : Symbol) : Byte :=
  byteOf (1 + 2 * symbolKindCode x.kind + 8 * extensionCode x.extension + flagBit x.release 5
    + 64 * errorTypeCode x.errorType)

/-- EV_HEAD while the presented latch holds `e` (R199). -/
def eventHead (e : EventRecord) : Byte :=
  byteOf (1 + 2 * e.kind.code + 16 * e.level.val + flagBit e.channel.isSome 6 + flagBit e.pattern.isSome 7)

/-- A register of the take latch of the channel selected: 0 while the latch is not valid (R200). -/
def State.latchByte (s : State) (f : Symbol → Byte) : Byte := ((s.chan s.chanSel).latch.map f).getD 0

/-- A register of the presented latch: 0 while it is not valid (R129, R200). -/
def State.eventByte (s : State) (f : EventRecord → Byte) : Byte := (s.presented.map f).getD 0

/-- A byte of the configuration space as it reads (R194). -/
def State.configByte (s : State) (a : Fin 64) : Byte :=
  match configTarget a with
  | .mode ch => modeByte (s.chan ch).mode
  | .lineSettings i => lineSettingsByte (s.ser i).baud (s.ser i).parity
  | .prefixWindow i => (s.ser i).prefixWindow
  | .holdLimit ch => byteOf (s.chan ch).holdLimit
  | .tailWindow ch => (s.chan ch).tailWindow
  | .linesEnable => byteOf ((allLines.map fun n => flagBit (s.line n).enabled n.val).sum)
  | .linesPolarity => byteOf ((allLines.map fun n => flagBit (s.line n).activeHigh n.val).sum)
  | .debounce => s.debounce
  | .eventLevel k => eventLevelByte s.eventLevels[k]
  | .intCtrl => intCtrlByte s.intEnable s.intFloor
  | .wakeFloor => byteOf s.wakeFloor.val
  | .pulseWidth o => (s.output o).width
  | .arbiterMode => arbiterModeByte s.arbiterMode
  | .unused => 0

/-- The class map that CLASS_SEL selects: none with 3 (R195). -/
def State.selectedMap? (s : State) : Option SerialChannel :=
  if h : s.classSel.val < 3 then some ⟨s.classSel.val, h⟩ else none

/-- The byte that CLASS_DATA reads (R195). -/
def State.classDataByte (s : State) : Byte :=
  match s.selectedMap? with
  | some i => classByte ((s.ser i).classMap[s.classAddr.toNat])
  | none => 0

/-- The byte that STAGE_DATA reads (R147). -/
def State.stageDataByte (s : State) : Byte := s.staging[s.stageAddr]

/-- The byte that a direct register holds for the host (R192), 0 for a write-only register (R191). The address that a
read of STAGE_DATA, CONFIG_DATA or CLASS_DATA advances is in the commands of those reads. -/
def State.registerByte (s : State) (addr : Fin 32) : Byte :=
  match addr.val with
  | 0x00 => Config.ident
  | 0x01 => s.statusByte
  | 0x02 => s.lastCommand.getD 0
  | 0x03 => s.operand
  | 0x04 => resultCode s.result
  | 0x05 => byteOf s.stageAddr.val
  | 0x06 => s.stageDataByte
  | 0x07 => byteOf s.configAddr.val
  | 0x08 => s.configByte s.configAddr
  | 0x09 => byteOf s.classSel.val
  | 0x0A => s.classAddr
  | 0x0B => s.classDataByte
  | 0x0D => s.lostByte
  | 0x0E => s.eventByte eventHead
  | 0x0F => s.eventByte (·.seq)
  | 0x10 => s.eventByte fun e => (e.channel.map fun c => byteOf c.val).getD 0
  | 0x11 => s.eventByte fun e => (e.pattern.map fun n => byteOf n.val).getD 0
  | 0x12 => s.eventByte fun e => e.tag.getD 0
  | 0x13 => s.eventByte fun e => loByte e.stamp
  | 0x14 => s.eventByte fun e => hiByte e.stamp
  | 0x15 => s.outputsByte
  | 0x16 => byteOf s.chanSel.val
  | 0x18 => s.latchByte (·.code)
  | 0x19 => s.latchByte latchFlags
  | 0x1A => s.latchByte fun x => loByte (lowHalf x.stamp)
  | 0x1B => s.latchByte fun x => hiByte (lowHalf x.stamp)
  | 0x1D => s.chanStatusByte s.chanSel
  | 0x1E => byteOf (s.chan s.chanSel).queue.length
  | 0x1F => byteOf (s.heldCount s.chanSel)
  | _ => 0

end Sys2Proof.Machine
end

