-- ==== Sys2Proof/Machine/Ops.lean ====
section
/-! DEFINITION. The named operations on the state: the updates of its numbered pieces, the arbiter, the event unit,
the output unit, the pattern memory, the match contexts, the delivery unit, the input FIFOs, the ready slots and
the two resets. Every meaning is built from these. -/

namespace Sys2Proof.Machine

/-! ## Updates of numbered pieces -/

/-- Replace a channel's state. -/
def State.setChan (s : State) (ch : Channel) (c : Chan) : State :=
  { s with chans := s.chans.set ch.val c ch.isLt }

/-- Change a channel's state. -/
def State.modChan (s : State) (ch : Channel) (f : Chan → Chan) : State := s.setChan ch (f (s.chan ch))

/-- Replace the serial part of a channel. -/
def State.setSer (s : State) (i : SerialChannel) (x : Serial) : State :=
  { s with serial := s.serial.set i.val x i.isLt }

/-- Change the serial part of a channel. -/
def State.modSer (s : State) (i : SerialChannel) (f : Serial → Serial) : State := s.setSer i (f (s.ser i))

/-- Replace a discrete line. -/
def State.setLine (s : State) (n : LineNum) (x : Line) : State :=
  { s with lines := s.lines.set n.val x n.isLt }

/-- Change a discrete line. -/
def State.modLine (s : State) (n : LineNum) (f : Line → Line) : State := s.setLine n (f (s.line n))

/-- Replace a pattern slot. -/
def State.setSlot (s : State) (n : PatternNum) (x : Slot) : State :=
  { s with slots := s.slots.set n.val x n.isLt }

/-- Replace an action output. -/
def State.setOutput (s : State) (o : OutputNum) (x : Output) : State :=
  { s with outputs := s.outputs.set o.val x o.isLt }

/-- Change an action output. -/
def State.modOutput (s : State) (o : OutputNum) (f : Output → Output) : State := s.setOutput o (f (s.output o))

/-- Do something for each item of a list in turn. -/
def forEach {α : Type} (items : List α) (f : State → α → State) (s : State) : State := items.foldl f s

/-! ## The pattern-memory arbiter (R172) -/

/-- Let the arbiter decide when the memory is free and somebody claims it; the event of the grant is taken at the grant
(`State.grantTaken`). -/
def State.arbitrate (s : State) : State :=
  match s.grant with
  | .free =>
    match s.decision with
    | some c => { s with grant := .decided c }
    | none => s
  | _ => s

/-- The grant as its event is taken: the claimant is recorded as granted last, and the memory is held (R172). -/
def State.useGrant (s : State) (c : Claimant) : State := { s with grant := .held c, lastGrant := c }

/-! ## The event unit (R118–R133) -/

/-- INT and WAKE take the value that the queue calls for (R133). -/
def State.refreshLines (s : State) : State := { s with intLine := s.intCondition, wakeLine := s.wakeCondition }

/-- Set the lost-mask flag of a level (R126). -/
def State.markLost (s : State) (l : EventLevel) : State := { s with lostMask := s.lostMask.set l.val true l.isLt }

/-- R124, R125: a created event joins the queue, when it is full by evicting the youngest event of a lower lowest
level, or is dropped. -/
def State.enqueueEvent (s : State) (e : EventRecord) : State :=
  if s.eventQueue.length < Config.eventDepth then { s with eventQueue := s.eventQueue ++ [e] }
  else if lowestLevel s.eventQueue < e.level then
    State.markLost { s with eventQueue := withoutYoungestLowest s.eventQueue ++ [e] } (lowestLevel s.eventQueue)
  else s.markLost e.level

/-- What a block offers: the kind, the fields the kind carries, and the stamp (R117). -/
structure Offer where
  kind : EventKind
  channel : Option Channel
  pattern : Option PatternNum
  tag : Option Byte
  stamp : Time
  deriving DecidableEq, Repr

/-- The record made of an offer (R120, steps 1 and 2). -/
def Offer.record (o : Offer) (seq : Byte) (l : EventLevel) : EventRecord :=
  { seq := seq, kind := o.kind, level := l, channel := o.channel, pattern := o.pattern, tag := o.tag,
    stamp := lowHalf o.stamp }

/-- R120: create an event of level `l`. -/
def State.createEvent (s : State) (l : EventLevel) (o : Offer) : State :=
  State.refreshLines (State.enqueueEvent { s with eventSeq := s.eventSeq + 1 } (o.record s.eventSeq l))

/-- R118: an offer of a kind other than MATCH is created with the table's level, or discarded when that is OFF. -/
def State.offer (s : State) (o : Offer) : State :=
  match s.tableLevel o.kind with
  | some l => s.createEvent l o
  | none => s

/-- An offer that names a channel and no pattern (R117). -/
def channelOffer (k : EventKind) (ch : Channel) (stamp : Time) : Offer := ⟨k, some ch, none, none, stamp⟩

/-- An offer that names a channel and a pattern (R117). -/
def patternOffer (k : EventKind) (ch : Channel) (n : PatternNum) (stamp : Time) : Offer :=
  ⟨k, some ch, some n, none, stamp⟩

/-- R130: NEXT. -/
def State.presentNext (s : State) : State :=
  State.refreshLines { s with presented := bestEvent? s.eventQueue, eventQueue := withoutBest s.eventQueue }

/-- R127: CLEAR_LOST of the levels that the mask names. -/
def State.clearLost (s : State) (mask : BitVec 4) : State :=
  { s with
    lostMask := #v[s.lostMask[0] && !mask.getLsbD 0, s.lostMask[1] && !mask.getLsbD 1,
      s.lostMask[2] && !mask.getLsbD 2, s.lostMask[3] && !mask.getLsbD 3] }

/-! ## The output unit (R138–R144) -/

/-- One action on an output (R141, R142), the time base being `now`. -/
def Output.act (o : Output) (m : ActionMode) (now : Time) : Output :=
  match m with
  | .set => { o with level := .high, deadline := none }
  | .clear => { o with level := .low, deadline := none }
  | .toggle => { o with level := (match o.level with | .low => .high | .high => .low), deadline := none }
  | .pulse => { o with level := .high, deadline := some (now + Config.shortUnit * o.width.toNat) }

/-- R140: a batch of actions, in order. -/
def State.applyBatch (s : State) (batch : List (OutputNum × ActionMode)) : State :=
  forEach batch (fun t a => t.modOutput a.1 fun o => o.act a.2 t.timeBase) s

/-- R143: the expiry of a pulse whose deadline the time base has reached. -/
def State.expirePulse (s : State) (o : OutputNum) : State :=
  if atOrBefore (s.output o).deadline s.timeBase then
    s.modOutput o fun x => { x with level := .low, deadline := none }
  else s

/-- R144: a write to OUTPUTS. -/
def State.writeOutputs (s : State) (v : Byte) : State :=
  forEach allOutputs (fun t o =>
    if bitAt v (o.val + 4) then
      t.modOutput o fun x => { x with level := if bitAt v o.val then .high else .low, deadline := none }
    else t) s

/-! ## The pattern memory (R39–R41, R167) -/

/-- Write elements into the pool from an address up. -/
def writeElements (pool : Vector Element 512) (a : Nat) : List Element → Vector Element 512
  | [] => pool
  | e :: es => writeElements (pool.setIfInBounds a e) (a + 1) es

/-- Place a run: its elements in the pool and its record in the slot, in one event (R40, R154, R167). -/
def State.placeRun (s : State) (n : PatternNum) (sl : Slot) (start : Nat) (es : List Element) : State :=
  State.setSlot { s with pool := writeElements s.pool start es } n sl

/-- R167: the slot's start becomes `f`. -/
def Slot.moveTo (f : Nat) : Slot → Slot
  | .free => .free
  | .disarmed r => .disarmed { r with start := f }
  | .armed r => .armed { r with start := f }

/-- R167: copy the run of a slot to the first free address and set its start. -/
def State.moveRun (s : State) (n : PatternNum) : State :=
  match (s.slot n).record? with
  | some r => s.placeRun n ((s.slot n).moveTo s.firstFree) s.firstFree (s.runElements r)
  | none => s

/-! ## Match contexts (R42–R46) -/

/-- Keep the candidates of a channel that satisfy a test. -/
def State.keepCandidates (s : State) (ch : Channel) (keep : Candidate → Bool) : State :=
  s.modChan ch fun c => { c with candidates := c.candidates.filter keep }

/-- R42: empty a channel's context: no candidates, no lockout records, no tail record. -/
def State.emptyContext (s : State) (ch : Channel) : State :=
  s.modChan ch fun c => { c with candidates := [], lockouts := [], tail := none }

/-- Remove every lockout record of a pattern on every channel (R82). -/
def State.removeLockouts (s : State) (n : PatternNum) : State :=
  forEach allChannels (fun t ch => t.modChan ch fun c =>
    { c with lockouts := c.lockouts.filter fun r => r.pattern != n }) s

/-- Cancel every candidate of a pattern on every channel. -/
def State.cancelPattern (s : State) (n : PatternNum) : State :=
  forEach allChannels (fun t ch => t.keepCandidates ch fun c => c.pattern != n) s

/-- R23: a pattern leaves ARMED: its slot becomes DISARMED, its candidates are cancelled and its lockout records
removed on every channel. -/
def State.leaveArmed (s : State) (n : PatternNum) : State :=
  ((s.setSlot n (s.slot n).disarm).cancelPattern n).removeLockouts n

/-! ## The delivery unit (R90–R107) -/

/-- R95: a symbol is lost to a full queue. -/
def State.loseSymbol (s : State) (ch : Channel) (x : Symbol) : State :=
  if (s.chan ch).lost then s
  else State.offer (s.modChan ch fun c => { c with lost := true }) (channelOffer .deliveryLost ch x.stamp)

/-- R66: cancel the first swallowing candidate of the set and offer HOLD_CANCEL with the stamp given (R107). -/
def State.cancelOldestSwallowing (s : State) (ch : Channel) (stamp : Time) : State :=
  match (s.chan ch).candidates.find? s.swallowing with
  | some c =>
    State.offer (s.modChan ch fun x => { x with candidates := x.candidates.eraseP s.swallowing })
      (patternOffer .holdCancel ch c.pattern stamp)
  | none => s

/-- R105: while the held count exceeds the hold limit, cancel the oldest swallowing candidate. Each round removes
one candidate, so as many rounds as there are candidates are enough. -/
def State.enforceHold (s : State) (ch : Channel) (stamp : Time) : Nat → State
  | 0 => s
  | rounds + 1 =>
    if (s.chan ch).holdLimit < s.heldCount ch then
      (s.cancelOldestSwallowing ch stamp).enforceHold ch stamp rounds
    else s

/-- R90, step 3: the symbol joins the queue and the hold limit is enforced (R94, R105). -/
def State.appendSymbol (s : State) (ch : Channel) (x : Symbol) : State :=
  State.enforceHold (s.modChan ch fun c => { c with queue := c.queue ++ [x] }) ch x.stamp
    (s.chan ch).candidates.length

/-- R90, step 2: room, or loss. -/
def State.storeSymbol (s : State) (ch : Channel) (x : Symbol) : State :=
  if (s.chan ch).queue.length < Config.queueDepth then s.appendSymbol ch x else s.loseSymbol ch x

/-- R101: count a release symbol against a tail record, which ends at 0. -/
def Tail.countDown (t : Tail) : Option Tail := if t.count ≤ 1 then none else some { t with count := t.count - 1 }

/-- R90: the delivery of a free or held symbol: the tail step (R101, R102), room, append. -/
def State.deliver (s : State) (ch : Channel) (x : Symbol) : State :=
  match (s.chan ch).tail with
  | some t =>
    if x.release then s.modChan ch fun c => { c with tail := t.countDown }
    else State.storeSymbol (s.modChan ch fun c => { c with tail := none }) ch x
  | none => s.storeSymbol ch x

/-- The expiry of a tail record set from a stamp (R84): none with tail window 0. -/
def tailExpiry? (window : Byte) (stamp : Time) : Option Time :=
  if window = 0 then none else some (stamp + Config.shortUnit * window.toNat)

/-- R97, R99: a swallowed symbol removes the entries from `birth` on, and a tail greater than 0 sets the tail record. -/
def State.swallow (s : State) (ch : Channel) (x : Symbol) (birth : ArrivalNum) (tail : Nat) : State :=
  s.modChan ch fun c =>
    { c with
      queue := c.queue.filter fun e => decide (e.arrival < birth)
      tail := if tail = 0 then c.tail else some ⟨tail, tailExpiry? c.tailWindow x.stamp⟩ }

/-- R111: TAKE on a channel. -/
def State.takeHead (s : State) (ch : Channel) : State :=
  match (s.chan ch).queue with
  | [] => s.modChan ch fun c => { c with latch := none }
  | x :: rest =>
    if heldBy (s.boundary ch) x then s.modChan ch fun c => { c with latch := none }
    else s.modChan ch fun c => { c with queue := rest, latch := some x, lost := false }

/-- R113: FLUSH on a channel. -/
def State.flushQueue (s : State) (ch : Channel) : State := s.modChan ch fun c => { c with queue := [], lost := false }

/-! ## The input FIFOs (R72, R182–R184) -/

/-- Append a raw entry, stamped with the time base (R72). -/
def State.appendRaw (s : State) (ch : Channel) (k : RawKind) : State :=
  s.modChan ch fun c => { c with fifo := c.fifo ++ [⟨k, s.timeBase⟩] }

/-- An arrival from a receiver or the line scanner: appended, or lost at a full FIFO (R183). -/
def State.arrive (s : State) (ch : Channel) (k : RawKind) : State :=
  if (s.chan ch).fifo.length < Config.fifoDepth then s.appendRaw ch k
  else if (s.chan ch).overrunPending then s
  else State.offer (s.modChan ch fun c => { c with overrunPending := true })
    (channelOffer .inputOverrun ch s.timeBase)

/-- R184: an injection, accepted or refused. -/
def State.injectByte (s : State) (ch : Channel) (v : Byte) : State :=
  if (s.chan ch).mode = .off ∨ Config.fifoDepth ≤ (s.chan ch).fifo.length then
    s.modChan ch fun c => { c with injectRefused := true }
  else State.appendRaw (s.modChan ch fun c => { c with injectRefused := false }) ch (injectedKind ch v)

/-! ## Ready slots and assemblers (R3–R20) -/

/-- R4, R108: a symbol placed in the ready slot waits there in MATCH, where the match unit then claims the pattern
memory (R47); in BYPASS it is handed on at once as a free symbol. -/
def State.placeSymbol (s : State) (ch : Channel) (x : Symbol) : State :=
  if (s.chan ch).mode = .matching then
    State.arbitrate (s.modChan ch fun c => { c with ready := some x })
  else s.deliver ch x

/-- R3: give a symbol the arrival number the counter holds, advance the counter, and place the symbol. -/
def State.makeSymbol (s : State) (ch : Channel) (x : ArrivalNum → Symbol) : State :=
  State.placeSymbol (s.modChan ch fun c => { c with arrivalCounter := c.arrivalCounter + 1 }) ch
    (x (s.chan ch).arrivalCounter)

/-- Remove the head entry of a FIFO (R5). -/
def State.popRaw (s : State) (ch : Channel) : State := s.modChan ch fun c => { c with fifo := c.fifo.tail }

/-- Discard the prefix of an assembler (R8). -/
def State.discardPrefix (s : State) (i : SerialChannel) : State :=
  s.modSer i fun x => { x with assembler := .clear }

/-- Discard the prefix of a channel that has an assembler. -/
def State.discardPrefixOf (s : State) (ch : Channel) : State :=
  match serialOf? ch with
  | some i => s.discardPrefix i
  | none => s

/-- R15: the pending prefix is stale at a stamp. -/
def Serial.staleAt (x : Serial) (stamp : Time) : Bool :=
  match x.prefixDeadline with
  | some d => decide (d < stamp)
  | none => false

/-- R15: the stale-prefix test at the take of a BYTE entry. -/
def State.dropStalePrefix (s : State) (i : SerialChannel) (stamp : Time) : State :=
  if (s.ser i).staleAt stamp then s.discardPrefix i else s

/-! ## The line scanner (R179–R181) -/

/-- A line's state at a debounced level (R179). -/
def Line.activeAt (l : Line) (level : LineLevel) : Bool := (level == .high) == l.activeHigh

/-- Hand a LINE entry to the FIFO of CH3 unless it is in OFF (R180). -/
def State.reportLine (s : State) (n : LineNum) (active : Bool) : State :=
  if (s.chan lineChannel).mode = .off then s else s.arrive lineChannel (.line n active)

/-- R180: a pending change is due under the debounce time in force. -/
def State.changeDue (s : State) (n : LineNum) : Bool :=
  atOrBefore ((s.line n).change.map fun p => p.time + s.debounce.toNat) s.timeBase

/-- R180: the scanner takes a pending change that is due. -/
def State.takeChange (s : State) (n : LineNum) : State :=
  match (s.line n).change with
  | some p =>
    if s.changeDue n then
      State.reportLine (s.modLine n fun l => { l with debounced := some p.level, change := none }) n
        ((s.line n).activeAt p.level)
    else s
  | none => s

/-- Take every pending change that is due, in line order (R181). -/
def State.takeDueChanges (s : State) : State := forEach allLines State.takeChange s

/-! ## Resets -/

/-- R191: every block at its device reset value. The levels on the lines are the equipment's and stay, as do the
commands that wait to be taken. DESIGN CHOICE (log entry 20): a grant in force ends at the reset. -/
def State.deviceReset (s : State) : State :=
  { State.reset with
    serial := #v[.reset (s.ser 0).rxMark, .reset (s.ser 1).rxMark, .reset (s.ser 2).rxMark]
    lines := #v[.reset (s.line 0).raw, .reset (s.line 1).raw, .reset (s.line 2).raw, .reset (s.line 3).raw,
      .reset (s.line 4).raw, .reset (s.line 5).raw, .reset (s.line 6).raw, .reset (s.line 7).raw]
    pending := s.pending }

/-- What a runtime reset leaves of a channel (R162): mode, hold limit and tail window. -/
def Chan.runtimeReset (c : Chan) : Chan :=
  { Chan.reset with mode := c.mode, holdLimit := c.holdLimit, tailWindow := c.tailWindow }

/-- R162: the moving state of every block at its starting values; the programming kept. -/
def State.runtimeReset (s : State) : State :=
  let s1 := forEach allChannels (fun t ch => t.modChan ch Chan.runtimeReset) s
  let s2 := forEach [0, 1, 2] State.discardPrefix s1
  let s3 := forEach allOutputs (fun t o => t.modOutput o fun x => { x with level := .low, deadline := none }) s2
  State.refreshLines
    { s3 with eventQueue := [], presented := none, lostMask := Vector.replicate 4 false, eventSeq := 0 }

end Sys2Proof.Machine
end

