-- ==== Sys2Proof/Machine/Commands.lean ====
section
/-! DEFINITION. Meanings of the table commands (chapter 8), each taken at its grant. A command whose grant the
arbiter has not decided, or that is not the pending one, is not taken and changes nothing (log entry 3). -/

namespace Sys2Proof.Machine

/-! ## Codes and slots (R149, R202) -/

/-- The command codes of R202. -/
def codeDefine : Byte := 1
/-- ARM's code. -/
def codeArm : Byte := 2
/-- DISARM's code. -/
def codeDisarm : Byte := 3
/-- DELETE's code. -/
def codeDelete : Byte := 4
/-- READ_BACK's code. -/
def codeReadBack : Byte := 5
/-- CLEAR_LOCKOUT's code. -/
def codeClearLockout : Byte := 6
/-- COMPACT's code. -/
def codeCompact : Byte := 7
/-- RUNTIME_RESET's code. -/
def codeRuntimeReset : Byte := 8

/-- R202: the byte names no command. -/
def namesNoCommand (v : Byte) : Bool := v == 0 || decide (8 < v.toNat)

/-- R149: the slot that OPERAND names; 64–255 name none. -/
def State.operandSlot? (s : State) : Option PatternNum :=
  if h : s.operand.toNat < 64 then some ⟨s.operand.toNat, h⟩ else none

/-! ## Taking a command (R151) -/

/-- The arbiter has decided for the table controller, and `code` is its pending command. -/
def State.commandGranted (s : State) (code : Byte) : Bool :=
  s.grant == .decided .table && s.pendingCommand == some code

/-- R151, steps 3 and 4: the code and the result are recorded and the pending state cleared. -/
def State.finishCommand (s : State) (code : Byte) (r : Result) : State :=
  { s.useGrant .table with lastCommand := some code, result := r, pendingCommand := none }

/-- A result and the state a command leaves, R151's recording aside. -/
abbrev Taken := Result × State

/-- R151: a command taken at its grant; `work` is the judging and carrying out. -/
def State.takeCommand (s : State) (code : Byte) (work : State → Taken) : State :=
  if s.commandGranted code then State.finishCommand (work s).2 code (work s).1 else s

/-- R151, check 2: BUSY while a compaction is in flight. -/
def unlessCompacting (s : State) (work : Taken) : Taken := if s.compacting then (.busy, s) else work

/-- R151, check 3: BAD_SLOT when OPERAND names no slot. -/
def withSlot (s : State) (work : PatternNum → Taken) : Taken :=
  match s.operandSlot? with
  | some n => work n
  | none => (.badSlot, s)

/-! ## DEFINE (R153, R154) -/

/-- R154: the DEFINE of a slot that may be defined, from a staging record. -/
def State.defineSlot (s : State) (n : PatternNum) : Taken :=
  match stagedPattern? s.staging with
  | none => (.badRecord, s)
  | some (p, es) =>
    match s.firstFit n p.length with
    | none => (.noSpace, s)
    | some a => (.ok, s.placeRun n (.disarmed ⟨p, a⟩) a es)

/-- R153: DEFINE by the slot's state. -/
def State.defineWork (s : State) (n : PatternNum) : Taken :=
  match s.slot n with
  | .armed _ => (.badState, s)
  | .free => s.defineSlot n
  | .disarmed _ => s.defineSlot n

/-- What DEFINE does when it is taken, by the checks of R151 and R153. -/
def State.judgeDefine (s : State) : Taken := unlessCompacting s (withSlot s s.defineWork)

/-- DEFINE. -/
def execDefine (s : State) : Host.Outcome State Fault Refusal :=
  .next (s.takeCommand codeDefine State.judgeDefine)

/-! ## ARM, DISARM, DELETE (R156, R157, R159) -/

/-- R156's table. -/
def State.armWork (s : State) (n : PatternNum) : Taken :=
  match s.slot n with
  | .free => (.badState, s)
  | .disarmed r => (.ok, s.setSlot n (.armed r))
  | .armed _ => (.ok, s)

/-- What ARM does when it is taken, by the checks of R151. -/
def State.judgeArm (s : State) : Taken := withSlot s s.armWork

/-- ARM. -/
def execArm (s : State) : Host.Outcome State Fault Refusal :=
  .next (s.takeCommand codeArm State.judgeArm)

/-- R157's table. -/
def State.disarmWork (s : State) (n : PatternNum) : Taken :=
  match s.slot n with
  | .free => (.badState, s)
  | .disarmed _ => (.ok, s)
  | .armed _ => (.ok, s.leaveArmed n)

/-- What DISARM does when it is taken, by the checks of R151. -/
def State.judgeDisarm (s : State) : Taken := withSlot s s.disarmWork

/-- DISARM. -/
def execDisarm (s : State) : Host.Outcome State Fault Refusal :=
  .next (s.takeCommand codeDisarm State.judgeDisarm)

/-- R159's table. -/
def State.deleteWork (s : State) (n : PatternNum) : Taken :=
  match s.slot n with
  | .free => (.ok, s)
  | .disarmed _ => (.ok, s.setSlot n .free)
  | .armed _ => (.badState, s)

/-- What DELETE does when it is taken, by the checks of R151. -/
def State.judgeDelete (s : State) : Taken := unlessCompacting s (withSlot s s.deleteWork)

/-- DELETE. -/
def execDelete (s : State) : Host.Outcome State Fault Refusal :=
  .next (s.takeCommand codeDelete State.judgeDelete)

/-! ## READ_BACK, CLEAR_LOCKOUT, COMPACT, RUNTIME_RESET (R160–R162, R165) -/

/-- R160's table. -/
def State.readBackWork (s : State) (n : PatternNum) : Taken :=
  match (s.slot n).record? with
  | none => (.badState, s)
  | some r => (.ok, { s with staging := encodeRecord r.pattern r.start (s.runElements r) })

/-- What READ_BACK does when it is taken, by the checks of R151. -/
def State.judgeReadBack (s : State) : Taken := withSlot s s.readBackWork

/-- READ_BACK. -/
def execReadBack (s : State) : Host.Outcome State Fault Refusal :=
  .next (s.takeCommand codeReadBack State.judgeReadBack)

/-- What CLEAR_LOCKOUT does when it is taken (R82, R161). -/
def State.judgeClearLockout (s : State) : Taken := withSlot s fun n => (.ok, s.removeLockouts n)

/-- CLEAR_LOCKOUT (R82, R161). -/
def execClearLockout (s : State) : Host.Outcome State Fault Refusal :=
  .next (s.takeCommand codeClearLockout State.judgeClearLockout)

/-- What COMPACT does when it is taken (R165). -/
def State.judgeCompact (s : State) : Taken := unlessCompacting s (.started, { s with compacting := true })

/-- COMPACT (R165). -/
def execCompact (s : State) : Host.Outcome State Fault Refusal :=
  .next (s.takeCommand codeCompact State.judgeCompact)

/-- What RUNTIME_RESET does when it is taken (R162). -/
def State.judgeRuntimeReset (s : State) : Taken := (.ok, s.runtimeReset)

/-- RUNTIME_RESET (R162). -/
def execRuntimeReset (s : State) : Host.Outcome State Fault Refusal :=
  .next (s.takeCommand codeRuntimeReset State.judgeRuntimeReset)

/-- What a code that names no command does when it is taken (R151, R202). -/
def State.judgeUnknown (s : State) : Taken := (.badCommand, s)

/-- BAD_COMMAND (R202): whatever code that names no command is pending. -/
def execBadCommand (s : State) : Host.Outcome State Fault Refusal :=
  .next (match s.pendingCommand with
    | some v => if namesNoCommand v then s.takeCommand v State.judgeUnknown else s
    | none => s)

/-- What the command of a code does when it is taken (R149, R202). -/
def State.judge (s : State) (code : Byte) : Taken :=
  if code = codeDefine then s.judgeDefine
  else if code = codeArm then s.judgeArm
  else if code = codeDisarm then s.judgeDisarm
  else if code = codeDelete then s.judgeDelete
  else if code = codeReadBack then s.judgeReadBack
  else if code = codeClearLockout then s.judgeClearLockout
  else if code = codeCompact then s.judgeCompact
  else if code = codeRuntimeReset then s.judgeRuntimeReset
  else s.judgeUnknown

end Sys2Proof.Machine
end

