-- ==== Sys2Proof/Machine/Compaction.lean ====
section
/-! DEFINITION. Meanings of the steps of a compaction (section 9.1), each under a grant of the pattern memory. -/

namespace Sys2Proof.Machine

/-- R166: the arbiter has decided for the table controller, and its claim is for the next step: a compaction is in
flight and no command is pending. -/
def State.stepGranted (s : State) : Bool :=
  s.grant == .decided .table && s.compacting && s.pendingCommand.isNone

/-- R168: the compaction ends, and COMPACT_DONE is offered with the time base as its stamp. -/
def State.endCompaction (s : State) : State :=
  State.offer { s with compacting := false } ⟨.compactDone, none, none, none, s.timeBase⟩

/-- R167: the move, and the end of the compaction when it leaves no run out of place (R168). -/
def State.compactionMove (s : State) (n : PatternNum) : State :=
  if (s.moveRun n).nextMove?.isNone then (s.moveRun n).endCompaction else s.moveRun n

/-- COMPACTION_MOVE (R167). -/
def execCompactionMove (s : State) : Host.Outcome State Fault Refusal :=
  .next (if s.stepGranted then
    match s.nextMove? with
    | some n => State.compactionMove (s.useGrant .table) n
    | none => s
  else s)

/-- COMPACTION_END (R168): the step that finds no run out of place. -/
def execCompactionEnd (s : State) : Host.Outcome State Fault Refusal :=
  .next (if s.stepGranted && s.nextMove?.isNone then State.endCompaction (s.useGrant .table) else s)

/-- The step of a grant, a move or the end (R166). -/
def State.takeStep (s : State) : State :=
  match s.nextMove? with
  | some n => State.compactionMove (s.useGrant .table) n
  | none => State.endCompaction (s.useGrant .table)

end Sys2Proof.Machine
end

