-- ==== Sys2Proof/Machine/Matching.lean ====
section
/-! DEFINITION. The match pass (chapter 3), phase by phase in the order of R50, and its command. -/

namespace Sys2Proof.Machine

/-! ## Phase 1: expiry (R51) -/

/-- A time, when present, earlier than a stamp (R73). -/
def earlierThan (d : Option Time) (stamp : Time) : Bool :=
  match d with
  | some t => decide (t < stamp)
  | none => false

/-- R51: remove what expired before the symbol's stamp. -/
def State.passExpiry (s : State) (ch : Channel) (stamp : Time) : State :=
  s.modChan ch fun c =>
    { c with
      candidates := c.candidates.filter fun k => !earlierThan k.deadline stamp
      lockouts := c.lockouts.filter fun r => !decide (r.expiry < stamp)
      tail := c.tail.filter fun t => !earlierThan t.expiry stamp }

/-! ## Phase 3: existing candidates (R53–R57) -/

/-- What a symbol does to one candidate (R53–R56). -/
inductive Fate where
  | transparent
  | advances
  | completes
  /-- dies by MISMATCH, leaving nothing -/
  | dies
  /-- dies by MISMATCH and starts a lockout -/
  | locks
  deriving DecidableEq, Repr

/-- R53: the first case that applies. -/
def State.fate (s : State) (x : Symbol) (c : Candidate) : Fate :=
  match (s.slot c.pattern).record? with
  | none => .dies
  | some r =>
    if r.pattern.pressOnly && x.release then .transparent
    else if elementMatches (s.elementAt (r.start + c.position)) x then
      if c.position + 1 = r.pattern.length then .completes else .advances
    else if r.pattern.lockout && decide (r.pattern.threshold.val ≤ c.position) then .locks
    else .dies

/-- R56: some candidate of the pattern starts a lockout on the symbol. -/
def State.startsLockout (s : State) (ch : Channel) (x : Symbol) (n : PatternNum) : Bool :=
  (s.chan ch).candidates.any fun c => c.pattern == n && s.fate x c == .locks

/-- R54: the candidate advanced by a symbol, its deadline renewed. -/
def State.advanced (s : State) (x : Symbol) (c : Candidate) : Candidate :=
  { c with
    position := c.position + 1
    deadline := match (s.slot c.pattern).record? with
      | some r => gapDeadline r.pattern x.stamp
      | none => none }

/-- What phase 3 leaves of a candidate (R53–R56): nothing when its pattern starts a lockout. -/
def State.survivor? (s : State) (ch : Channel) (x : Symbol) (c : Candidate) : Option Candidate :=
  if s.startsLockout ch x c.pattern then none
  else
    match s.fate x c with
    | .transparent => some c
    | .advances => some (s.advanced x c)
    | .completes => none
    | .dies => none
    | .locks => none

/-- A completion on the pass's symbol: the pattern and the birth it completes from. -/
structure Completion where
  pattern : PatternNum
  birth : ArrivalNum
  deriving DecidableEq, Repr

/-- The completions of phase 3 (R54); a lockout of the same pattern prevails over them (R57). -/
def State.advanceCompletions (s : State) (ch : Channel) (x : Symbol) : List Completion :=
  ((s.chan ch).candidates.filter fun c => s.fate x c == .completes && !s.startsLockout ch x c.pattern).map
    fun c => ⟨c.pattern, c.birth⟩

/-- The lockout record that a failing symbol makes for a pattern (R56). -/
def State.lockoutRecord (s : State) (x : Symbol) (n : PatternNum) : Lockout :=
  { pattern := n
    expiry := match (s.slot n).record? with
      | some r => x.stamp + Config.lockoutUnit * r.pattern.lockoutTime.toNat
      | none => x.stamp }

/-- Phase 3: survivors, lockout records, and the LOCKOUT offers in pattern-number order. -/
def State.passCandidates (s : State) (ch : Channel) (x : Symbol) : State :=
  let locked := allPatterns.filter (s.startsLockout ch x)
  forEach locked (fun t n => t.offer (patternOffer .lockout ch n x.stamp))
    (s.modChan ch fun c =>
      { c with
        candidates := c.candidates.filterMap (s.survivor? ch x)
        lockouts := c.lockouts ++ locked.map (s.lockoutRecord x) })

/-! ## Phase 4: spawning (R58–R60) -/

/-- R58: the record of a pattern that is eligible to spawn on the symbol. -/
def State.eligible? (s : State) (ch : Channel) (x : Symbol) (n : PatternNum) : Option Stored :=
  match (s.slot n).armed? with
  | some r =>
    if r.pattern.channels.getLsbD ch.val
        && !((s.chan ch).lockouts.any fun l => l.pattern == n)
        && !(r.pattern.pressOnly && x.release)
        && elementMatches (s.elementAt r.start) x then some r
    else none
  | none => none

/-- What phase 4 has made so far. -/
structure Spawning where
  candidates : List Candidate
  completions : List Completion
  /-- the first pattern refused (R60) -/
  refused : Option PatternNum
  deriving DecidableEq, Repr

/-- R59, R60: one pattern's turn in phase 4. -/
def State.spawnOne (s : State) (ch : Channel) (x : Symbol) (w : Spawning) (n : PatternNum) : Spawning :=
  match s.eligible? ch x n with
  | none => w
  | some r =>
    if r.pattern.length = 1 then { w with completions := w.completions ++ [⟨n, x.arrival⟩] }
    else if Config.candidateMax ≤ w.candidates.length then { w with refused := w.refused.or (some n) }
    else
      { w with
        candidates := w.candidates ++
          [{ pattern := n, position := 1, deadline := gapDeadline r.pattern x.stamp, birth := x.arrival }] }

/-- Phase 4 over every pattern, in pattern-number order. -/
def State.spawnAll (s : State) (ch : Channel) (x : Symbol) : Spawning :=
  allPatterns.foldl (s.spawnOne ch x) ⟨(s.chan ch).candidates, [], none⟩

/-- Phase 4's effect: the candidates made, and the SPAWN_REFUSED offer of the first refusal. -/
def State.passSpawning (s : State) (ch : Channel) (x : Symbol) (w : Spawning) : State :=
  let t := s.modChan ch fun c => { c with candidates := w.candidates }
  match w.refused with
  | some n => t.offer (patternOffer .spawnRefused ch n x.stamp)
  | none => t

/-! ## Phase 5: completions (R61–R63) -/

/-- Completions in pattern-number order (R61). -/
def inPatternOrder (done : List Completion) : List Completion :=
  allPatterns.flatMap fun n => done.filter fun d => d.pattern == n

/-- R61: the MATCH event of a completion, of the pattern's level and tag; always created (R118). -/
def State.offerMatch (s : State) (ch : Channel) (x : Symbol) (d : Completion) : State :=
  match (s.slot d.pattern).record? with
  | some r => s.createEvent r.pattern.level ⟨.matched, some ch, some d.pattern, some r.pattern.tag, x.stamp⟩
  | none => s

/-- R61: the action that a completion hands on, when the pattern names an output. -/
def State.actionOf? (s : State) (d : Completion) : Option (OutputNum × ActionMode) :=
  match (s.slot d.pattern).record? with
  | some r => r.pattern.actionOutput.map fun o => (o, r.pattern.actionMode)
  | none => none

/-- R62: a completing ONE_SHOT pattern leaves ARMED. -/
def State.disarmOneShot (s : State) (d : Completion) : State :=
  match (s.slot d.pattern).record? with
  | some r => if r.pattern.oneShot then s.leaveArmed d.pattern else s
  | none => s

/-- A completing pattern has clear on complete (R63). -/
def State.clears (s : State) (d : Completion) : Bool :=
  match (s.slot d.pattern).record? with
  | some r => r.pattern.clearOnComplete
  | none => false

/-- Phase 5, the completions being in pattern-number order: MATCH events, the batch of actions, the ONE_SHOT
disarms, and the clearing. -/
def State.passCompletions (s : State) (ch : Channel) (x : Symbol) (done : List Completion) : State :=
  let s1 := forEach done (fun t d => t.offerMatch ch x d) s
  let s2 := s1.applyBatch (done.filterMap s.actionOf?)
  let s3 := forEach done State.disarmOneShot s2
  if done.any s.clears then s3.modChan ch fun c => { c with candidates := [] } else s3

/-! ## Phases 6 and 7: disposition, delivery and hold limit (R64–R66) -/

/-- What the pass decides about its symbol (R64). A free and a held symbol are delivered alike: which of the two a
stored entry is follows from the hold boundary (R91, R94). -/
inductive Disposition where
  | swallowed (birth : ArrivalNum) (tail : Nat)
  | held
  | free
  deriving DecidableEq, Repr

/-- R64: the tail of a completing pattern. -/
def State.tailOf (s : State) (d : Completion) : Nat :=
  match (s.slot d.pattern).record? with
  | some r => r.pattern.tail.val
  | none => 0

/-- R64, from the completions and the set that phase 5 left. -/
def State.disposition (s : State) (ch : Channel) (done : List Completion) : Disposition :=
  match ((done.filter fun d => s.swallows d.pattern).map (·.birth)).min? with
  | some b => .swallowed b ((done.filter fun d => s.swallows d.pattern).foldl (fun m d => max m (s.tailOf d)) 0)
  | none => if (s.boundary ch).isSome then .held else .free

/-- R65: the delivery unit's work for the symbol. -/
def State.handOn (s : State) (ch : Channel) (x : Symbol) : Disposition → State
  | .swallowed b t => s.swallow ch x b t
  | .held => s.deliver ch x
  | .free => s.deliver ch x

/-! ## The pass -/

/-- Phases 3 to 7, for a symbol that is not an ERROR symbol. -/
def State.passPhases (s : State) (ch : Channel) (x : Symbol) : State :=
  let s3 := s.passCandidates ch x
  let w := s3.spawnAll ch x
  let s4 := s3.passSpawning ch x w
  let done := inPatternOrder (s.advanceCompletions ch x ++ w.completions)
  let s5 := s4.passCompletions ch x done
  s5.handOn ch x (s5.disposition ch done)

/-- R50: the phases of a pass, an ERROR symbol ending every candidate and the pass at phase 2 (R52). -/
def State.runPass (s : State) (ch : Channel) (x : Symbol) : State :=
  let s1 := s.passExpiry ch x.stamp
  if x.kind = .error then (s1.keepCandidates ch fun _ => false).deliver ch x else s1.passPhases ch x

/-- R49: the pass takes the symbol from the ready slot, and the channel becomes the channel served last (R48). -/
def State.beginPass (s : State) (ch : Channel) : State :=
  State.useGrant { (s.modChan ch fun c => { c with ready := none }) with lastServed := ch } .matchUnit

/-- The pass of a grant (R48–R50): the channel that the match unit chooses, when the arbiter has decided for it. -/
def State.matchPass (s : State) : State :=
  if s.grant = .decided .matchUnit then
    match s.nextReady? with
    | some ch =>
      match (s.chan ch).ready with
      | some x => (s.beginPass ch).runPass ch x
      | none => s
    | none => s
  else s

/-- MATCH_PASS (R48–R50). -/
def execMatchPass (s : State) : Host.Outcome State Fault Refusal := .next s.matchPass

end Sys2Proof.Machine
end

