-- ==== Sys2Proof/Machine/Grant.lean ====
section
/-! DEFINITION. The event of a grant, taken at the grant (R172): whatever else happens to the part finds it taken. Here
too the shape of a host access and the meaning of the end of a grant. -/

namespace Sys2Proof.Machine

/-! ## The event at the grant (R172) -/

/-- The event of the table controller's grant: its pending command, or else the next step of the compaction in flight
(R166). -/
def State.tableEvent (s : State) : State :=
  match s.pendingCommand with
  | some code => s.takeCommand code fun t => t.judge code
  | none => if s.stepGranted then s.takeStep else s

/-- R172: the part with the event of a decided grant taken, as the grant itself takes it: the pass, the command or the
step. With no grant decided, the part as it is (log entry 4). -/
def State.grantTaken (s : State) : State :=
  match s.grant with
  | .decided .matchUnit => s.matchPass
  | .decided .table => s.tableEvent
  | .held _ => s
  | .free => s

/-- What a command that is not the event of a grant leaves: it falls after the event of a grant made before it, which is
not taken back (R172). -/
def afterGrant (s : State) (f : State → State) : Host.Outcome State Fault Refusal := .next (f s.grantTaken)

/-! ## Host accesses (R191) -/

/-- A host access: ignored while RESET is asserted (R191). -/
def hostAccess (s : State) (f : State → State) : Host.Outcome State Fault Refusal :=
  .next (if s.inReset then s else f s.grantTaken)

/-- A host read that changes state: it drives `value` on D0–D7, and 0 while RESET is asserted (R191). -/
def hostRead (s : State) (value : State → Byte) (f : State → State) : Host.Outcome State Fault Refusal :=
  .next (if s.inReset then { s with dataOut := 0 } else { f s.grantTaken with dataOut := value s.grantTaken })

/-- What a read of a direct register returns: 0 while RESET is asserted (R191). -/
def State.readRegister (s : State) (addr : Fin 32) : Byte := if s.inReset then 0 else s.grantTaken.registerByte addr

/-! ## The end of a grant (R172) -/

/-- A grant whose event has been taken ends, and the arbiter decides among the claims that wait. -/
def State.endGrant (s : State) : State :=
  match s.grant with
  | .held _ => State.arbitrate { s with grant := .free }
  | .free => s
  | .decided _ => s

/-- GRANT_END. -/
def execGrantEnd (s : State) : Host.Outcome State Fault Refusal := afterGrant s State.endGrant

end Sys2Proof.Machine
end

