-- ==== Sys2Proof/Machine/Assembler.lean ====
section
/-! DEFINITION. Meanings of the takes (chapter 1): a channel takes the head of its FIFO under R5, one command for
each thing the head can be. A take whose conditions do not hold, or whose head is another kind of entry, is not
taken and changes nothing (log entry 3). -/

namespace Sys2Proof.Machine

/-- The state in which a BYTE entry acts by its class: the entry taken and the stale-prefix test made (R5, R15). -/
def State.afterByteTake (s : State) (i : SerialChannel) (stamp : Time) : State :=
  (s.popRaw (serialChannel i)).dropStalePrefix i stamp

/-- The take of a BYTE entry whose value the class map gives the class `cls` (R5, R6): `act` is what the byte does. -/
def State.takeByte (s : State) (i : SerialChannel) (cls : ByteClass) (act : State → Byte → Time → State) : State :=
  match s.takeable? (serialChannel i) with
  | some ⟨.byte v, t⟩ => if (s.ser i).classMap[v.toNat] = cls then act (s.afterByteTake i t) v t else s
  | _ => s

/-- The DATA symbol of R13. -/
def dataSymbol (ch : Channel) (v : Byte) (a : Assembler) (stamp : Time) (n : ArrivalNum) : Symbol :=
  { channel := ch, kind := .data, code := v, extension := a.ext, release := a.rel, errorType := none,
    stamp := stamp, arrival := n }

/-- The ERROR symbol of R18 and R20. -/
def errorSymbol (ch : Channel) (code : Byte) (type : ErrorType) (stamp : Time) (n : ArrivalNum) : Symbol :=
  { channel := ch, kind := .error, code := code, extension := .plain, release := false, errorType := some type,
    stamp := stamp, arrival := n }

/-- The BREAK symbol of R19. -/
def breakSymbol (ch : Channel) (stamp : Time) (n : ArrivalNum) : Symbol :=
  { channel := ch, kind := .brk, code := 0, extension := .plain, release := false, errorType := none,
    stamp := stamp, arrival := n }

/-- The LINE symbol of R21. -/
def lineSymbol (num : LineNum) (active : Bool) (stamp : Time) (n : ArrivalNum) : Symbol :=
  { channel := lineChannel, kind := .line, code := byteOf num.val, extension := .plain, release := !active,
    errorType := none, stamp := stamp, arrival := n }

/-- The error type that an ERROR entry gives its symbol (R18). -/
def errorTypeOf : LineError → ErrorType
  | .parity => .parity
  | .framing => .framing

/-- R13: a PLAIN byte becomes a DATA symbol, which takes the prefix. -/
def State.takePlain (s : State) (i : SerialChannel) : State :=
  s.takeByte i .plain fun t v stamp =>
    (t.discardPrefix i).makeSymbol (serialChannel i) (dataSymbol (serialChannel i) v (t.ser i).assembler stamp)

/-- TAKE_PLAIN_BYTE. -/
def execTakePlainByte (i : SerialChannel) (s : State) : Host.Outcome State Fault Refusal :=
  afterGrant s fun t => t.takePlain i

/-- R11: a lead byte sets the pending extension and the prefix stamp. -/
def State.leadWith (s : State) (i : SerialChannel) (e : Extension) (stamp : Time) : State :=
  s.modSer i fun x => { x with assembler := { x.assembler with ext := e, prefixStamp := some stamp } }

/-- R11: a byte of class LEAD_A or of class LEAD_B. -/
def State.takeLead (s : State) (i : SerialChannel) : State :=
  match s.takeable? (serialChannel i) with
  | some ⟨.byte v, t⟩ =>
    match (s.ser i).classMap[v.toNat] with
    | .leadA => (s.afterByteTake i t).leadWith i .a t
    | .leadB => (s.afterByteTake i t).leadWith i .b t
    | _ => s
  | _ => s

/-- TAKE_LEAD_BYTE. -/
def execTakeLeadByte (i : SerialChannel) (s : State) : Host.Outcome State Fault Refusal :=
  afterGrant s fun t => t.takeLead i

/-- R12: a RELEASE byte sets the pending release. -/
def State.takeRelease (s : State) (i : SerialChannel) : State :=
  s.takeByte i .release fun t _ stamp =>
    t.modSer i fun x => { x with assembler := { x.assembler with rel := true, prefixStamp := some stamp } }

/-- TAKE_RELEASE_BYTE. -/
def execTakeReleaseByte (i : SerialChannel) (s : State) : Host.Outcome State Fault Refusal :=
  afterGrant s fun t => t.takeRelease i

/-- TAKE_DROP_BYTE (R10). -/
def execTakeDropByte (i : SerialChannel) (s : State) : Host.Outcome State Fault Refusal :=
  afterGrant s fun t => t.takeByte i .drop fun u _ _ => u

/-- R18: the ERROR symbol and the LINE_ERROR offer. DESIGN CHOICE (log entry 19): the offer is taken before the symbol
is placed, so before the DELIVERY_LOST that the placing may offer on a BYPASS channel. -/
def State.takeError (s : State) (i : SerialChannel) : State :=
  match s.takeable? (serialChannel i) with
  | some ⟨.error v type, t⟩ =>
    (State.offer ((s.popRaw (serialChannel i)).discardPrefix i)
        (channelOffer .lineError (serialChannel i) t)).makeSymbol (serialChannel i)
      (errorSymbol (serialChannel i) v (errorTypeOf type) t)
  | _ => s

/-- TAKE_ERROR_ENTRY. -/
def execTakeErrorEntry (i : SerialChannel) (s : State) : Host.Outcome State Fault Refusal :=
  afterGrant s fun t => t.takeError i

/-- R19: the BREAK symbol. -/
def State.takeBreak (s : State) (i : SerialChannel) : State :=
  match s.takeable? (serialChannel i) with
  | some ⟨.brk, t⟩ =>
    State.makeSymbol ((s.popRaw (serialChannel i)).discardPrefix i) (serialChannel i)
      (breakSymbol (serialChannel i) t)
  | _ => s

/-- TAKE_BREAK_ENTRY. -/
def execTakeBreakEntry (i : SerialChannel) (s : State) : Host.Outcome State Fault Refusal :=
  afterGrant s fun t => t.takeBreak i

/-- R20: the ERROR symbol of an overrun; the head entry gives its stamp and stays in the FIFO. -/
def State.takeOverrun (s : State) (ch : Channel) : State :=
  match s.canTake ch && (s.chan ch).overrunPending, (s.chan ch).fifo with
  | true, e :: _ =>
    State.makeSymbol ((s.modChan ch fun c => { c with overrunPending := false }).discardPrefixOf ch) ch
      (errorSymbol ch 0 .overrun e.stamp)
  | _, _ => s

/-- OVERRUN_TAKE. -/
def execOverrunTake (ch : Channel) (s : State) : Host.Outcome State Fault Refusal :=
  afterGrant s fun t => t.takeOverrun ch

/-- R21: the LINE symbol. -/
def State.takeLine (s : State) : State :=
  match s.takeable? lineChannel with
  | some ⟨.line num active, t⟩ => State.makeSymbol (s.popRaw lineChannel) lineChannel (lineSymbol num active t)
  | _ => s

/-- TAKE_LINE_ENTRY. -/
def execTakeLineEntry (s : State) : Host.Outcome State Fault Refusal := afterGrant s State.takeLine

/-- R16: the prefix expiry is due and no FIFO entry is stamped at or before its deadline. -/
def State.prefixExpirable (s : State) (i : SerialChannel) : Bool :=
  match (s.ser i).prefixDeadline with
  | some d => decide (d < s.timeBase) && !(s.chan (serialChannel i)).fifo.any fun e => decide (e.stamp ≤ d)
  | none => false

/-- PREFIX_EXPIRY (R16). -/
def execPrefixExpiry (i : SerialChannel) (s : State) : Host.Outcome State Fault Refusal :=
  afterGrant s fun t => if t.prefixExpirable i then t.discardPrefix i else t

end Sys2Proof.Machine
end

