-- ==== Sys2Proof/Machine/ConfigSpace.lean ====
section
/-! DEFINITION. Meanings of the writes to the configuration space (R194): the channel modes (section 10.5), the line
settings, the windows and limits, the line scanner's bytes, the event unit's, the output unit's and the arbiter's.
Each is a write of CONFIG_DATA; the byte it reaches is the one CONFIG_ADDR names, and the address then advances. A
command whose byte is not the one CONFIG_ADDR names is not that write and changes nothing (log entry 3). -/

namespace Sys2Proof.Machine

/-- A data access of the configuration window: the address advances, from 63 to 0 (R194). -/
def State.advanceConfig (s : State) : State := { s with configAddr := s.configAddr + 1 }

/-! ## Channel modes (R186–R189) -/

/-- R187: to OFF. -/
def State.modeOff (s : State) (ch : Channel) : State :=
  let stopped := match serialOf? ch with
    | some i => s.modSer i fun x => { x with reception := .stopped, assembler := .clear }
    | none => s
  (stopped.modChan ch fun c =>
    { c with mode := .off, fifo := [], overrunPending := false, ready := none }).emptyContext ch

/-- R188: out of OFF, to the mode given. -/
def State.modeLeaveOff (s : State) (ch : Channel) (m : Mode) : State :=
  let started := match serialOf? ch with
    | some i => s.modSer i fun x => { x with reception := if x.rxMark then .idle else .markWait }
    | none => s
  started.modChan ch fun c => { c with mode := m }

/-- R109, R189: MATCH to BYPASS; the symbol that waits is delivered free behind the released entries. -/
def State.modeMatchToBypass (s : State) (ch : Channel) : State :=
  let t := (s.modChan ch fun c => { c with mode := .bypass, ready := none }).emptyContext ch
  match (s.chan ch).ready with
  | some x => t.deliver ch x
  | none => t

/-- R189: BYPASS to MATCH. -/
def State.modeBypassToMatch (s : State) (ch : Channel) : State := s.modChan ch fun c => { c with mode := .matching }

/-- A mode write by the mode before and the mode written (R186–R189); the same mode changes nothing. -/
def State.changeMode (s : State) (ch : Channel) (m : Mode) : State :=
  match (s.chan ch).mode, m with
  | .off, .off => s
  | .off, .bypass => s.modeLeaveOff ch .bypass
  | .off, .matching => s.modeLeaveOff ch .matching
  | .bypass, .off => s.modeOff ch
  | .bypass, .bypass => s
  | .bypass, .matching => s.modeBypassToMatch ch
  | .matching, .off => s.modeOff ch
  | .matching, .bypass => s.modeMatchToBypass ch
  | .matching, .matching => s

/-- A write of MODE: a value that names no mode leaves it as it was (R186). -/
def State.writeMode (s : State) (ch : Channel) (v : Byte) : State :=
  match modeOf? v with
  | some m => s.changeMode ch m
  | none => s

/-! ## The other bytes -/

/-- R178: a change of the line settings discards a frame in progress. -/
def Serial.resettle (x : Serial) (baud : Fin 8) (parity : Parity) : Serial :=
  { x with
    baud := baud
    parity := parity
    reception := if x.reception = .frame then (if x.rxMark then .idle else .markWait) else x.reception }

/-- R175, R178: a write of LINE_SETTINGS. -/
def State.writeLineSettings (s : State) (i : SerialChannel) (v : Byte) : State :=
  match parityOf? (fieldAt v 3 2) with
  | some p =>
    if (s.ser i).baud = baudOf v ∧ (s.ser i).parity = p then s
    else s.modSer i fun x => x.resettle (baudOf v) p
  | none => s

/-- R17: a write of PREFIX_WINDOW. A pending prefix whose expiry is due and not yet taken is judged by the new window,
as the order of the events gives it (log entry 17). -/
def State.writePrefixWindow (s : State) (i : SerialChannel) (v : Byte) : State :=
  s.modSer i fun x => { x with prefixWindow := v }

/-- R104, R106: a write of HOLD_LIMIT, enforced at once, its HOLD_CANCEL events stamped with the time base. -/
def State.writeHoldLimit (s : State) (ch : Channel) (v : Byte) : State :=
  if 1 ≤ v.toNat ∧ v.toNat ≤ 32 then
    State.enforceHold (s.modChan ch fun c => { c with holdLimit := v.toNat }) ch s.timeBase
      (s.chan ch).candidates.length
  else s

/-- R84: a write of TAIL_WINDOW. -/
def State.writeTailWindow (s : State) (ch : Channel) (v : Byte) : State :=
  s.modChan ch fun c => { c with tailWindow := v }

/-- R181: enable or disable one line; a line that is so already is left as it was. DESIGN CHOICE (log entry 22): a
disabling in the very millisecond the pending change is due drops the change when it has not yet been taken. -/
def Line.setEnable (l : Line) (on : Bool) : Line :=
  match l.enabled, on with
  | false, true => { l with enabled := true, debounced := some l.raw, change := none }
  | true, false => { l with enabled := false, debounced := none, change := none }
  | _, _ => l

/-- R181: a write of LINES_ENABLE (log entry 22 for a change due at this very millisecond). -/
def State.writeLinesEnable (s : State) (v : Byte) : State :=
  forEach allLines (fun t n => t.modLine n fun l => l.setEnable (bitAt v n.val)) s

/-- R181: the polarity of one line; an enabled line whose polarity changes reports its new state. -/
def State.setPolarity (s : State) (n : LineNum) (activeHigh : Bool) : State :=
  if (s.line n).activeHigh = activeHigh then s
  else
    let t := s.modLine n fun l => { l with activeHigh := activeHigh }
    match (s.line n).enabled, (s.line n).debounced with
    | true, some d => t.reportLine n ((t.line n).activeAt d)
    | _, _ => t

/-- R181: a write of LINES_POLARITY. -/
def State.writeLinesPolarity (s : State) (v : Byte) : State :=
  forEach allLines (fun t n => t.setPolarity n (bitAt v n.val)) s

/-- R181: a write of DEBOUNCE; the pending changes already due under it are taken at once (DEDUCED, log entry 14, for
one due at this very millisecond). DESIGN CHOICE (log entry 22): a raised time postpones a change that fell due in this
millisecond and has not yet been taken. -/
def State.writeDebounce (s : State) (v : Byte) : State := State.takeDueChanges { s with debounce := v }

/-- R119: a write of EVENT_LEVEL. -/
def State.writeEventLevel (s : State) (k : Fin 7) (v : Byte) : State :=
  match eventLevelOf? v with
  | some l => { s with eventLevels := s.eventLevels.set k.val l k.isLt }
  | none => s

/-- R134: a write of INT_CTRL. -/
def State.writeIntCtrl (s : State) (v : Byte) : State :=
  State.refreshLines { s with intEnable := bitAt v 7, intFloor := intFloorOf v }

/-- R135: a write of WAKE_FLOOR. -/
def State.writeWakeFloor (s : State) (v : Byte) : State :=
  if h : v.toNat < 5 then State.refreshLines { s with wakeFloor := ⟨v.toNat, h⟩ } else s

/-- R139: a write of PULSE_WIDTH. -/
def State.writePulseWidth (s : State) (o : OutputNum) (v : Byte) : State :=
  if v = 0 then s else s.modOutput o fun x => { x with width := v }

/-- R173: a write of ARBITER_MODE. -/
def State.writeArbiterMode (s : State) (v : Byte) : State :=
  match arbiterModeOf? v with
  | some m => { s with arbiterMode := m }
  | none => s

/-- R194: a write of the byte of the configuration space that CONFIG_ADDR names, whichever it is. -/
def State.writeConfigByte (s : State) (v : Byte) : State :=
  match configTarget s.configAddr with
  | .mode ch => s.writeMode ch v
  | .lineSettings i => s.writeLineSettings i v
  | .prefixWindow i => s.writePrefixWindow i v
  | .holdLimit ch => s.writeHoldLimit ch v
  | .tailWindow ch => s.writeTailWindow ch v
  | .linesEnable => s.writeLinesEnable v
  | .linesPolarity => s.writeLinesPolarity v
  | .debounce => s.writeDebounce v
  | .eventLevel k => s.writeEventLevel k v
  | .intCtrl => s.writeIntCtrl v
  | .wakeFloor => s.writeWakeFloor v
  | .pulseWidth o => s.writePulseWidth o v
  | .arbiterMode => s.writeArbiterMode v
  | .unused => s

/-! ## The commands -/

/-- The mode written, when it is one that leaves OFF or stays out of it (R188, R189). -/
def activeModeOf? (v : Byte) : Option Mode :=
  match modeOf? v with
  | some .bypass => some .bypass
  | some .matching => some .matching
  | _ => none

/-- MODE_TO_OFF (R187): from BYPASS or MATCH. -/
def execModeToOff (s : State) : Host.Outcome State Fault Refusal :=
  hostAccess s fun t =>
    match configTarget t.configAddr with
    | .mode ch => if (t.chan ch).mode = .off then t else (t.modeOff ch).advanceConfig
    | _ => t

/-- MODE_OUT_OF_OFF (R188). -/
def execModeOutOfOff (v : Byte) (s : State) : Host.Outcome State Fault Refusal :=
  hostAccess s fun t =>
    match configTarget t.configAddr, activeModeOf? v with
    | .mode ch, some m => if (t.chan ch).mode = .off then (t.modeLeaveOff ch m).advanceConfig else t
    | _, _ => t

/-- MODE_BYPASS_MATCH (R189). -/
def execModeBypassMatch (v : Byte) (s : State) : Host.Outcome State Fault Refusal :=
  hostAccess s fun t =>
    match configTarget t.configAddr, activeModeOf? v with
    | .mode ch, some m =>
      match (t.chan ch).mode, m with
      | .matching, .bypass => (t.modeMatchToBypass ch).advanceConfig
      | .bypass, .matching => (t.modeBypassToMatch ch).advanceConfig
      | _, _ => t
    | _, _ => t

/-- LINE_SETTINGS_WRITE (R178). -/
def execLineSettingsWrite (v : Byte) (s : State) : Host.Outcome State Fault Refusal :=
  hostAccess s fun t =>
    match configTarget t.configAddr with
    | .lineSettings i => (t.writeLineSettings i v).advanceConfig
    | _ => t

/-- PREFIX_WINDOW_WRITE (R17). -/
def execPrefixWindowWrite (v : Byte) (s : State) : Host.Outcome State Fault Refusal :=
  hostAccess s fun t =>
    match configTarget t.configAddr with
    | .prefixWindow i => (t.writePrefixWindow i v).advanceConfig
    | _ => t

/-- HOLD_LIMIT_WRITE (R106). -/
def execHoldLimitWrite (v : Byte) (s : State) : Host.Outcome State Fault Refusal :=
  hostAccess s fun t =>
    match configTarget t.configAddr with
    | .holdLimit ch => (t.writeHoldLimit ch v).advanceConfig
    | _ => t

/-- TAIL_WINDOW_WRITE (R84). -/
def execTailWindowWrite (v : Byte) (s : State) : Host.Outcome State Fault Refusal :=
  hostAccess s fun t =>
    match configTarget t.configAddr with
    | .tailWindow ch => (t.writeTailWindow ch v).advanceConfig
    | _ => t

/-- LINES_ENABLE_WRITE (R181). -/
def execLinesEnableWrite (v : Byte) (s : State) : Host.Outcome State Fault Refusal :=
  hostAccess s fun t =>
    match configTarget t.configAddr with
    | .linesEnable => (t.writeLinesEnable v).advanceConfig
    | _ => t

/-- LINES_POLARITY_WRITE (R181). -/
def execLinesPolarityWrite (v : Byte) (s : State) : Host.Outcome State Fault Refusal :=
  hostAccess s fun t =>
    match configTarget t.configAddr with
    | .linesPolarity => (t.writeLinesPolarity v).advanceConfig
    | _ => t

/-- DEBOUNCE_WRITE (R181). -/
def execDebounceWrite (v : Byte) (s : State) : Host.Outcome State Fault Refusal :=
  hostAccess s fun t =>
    match configTarget t.configAddr with
    | .debounce => (t.writeDebounce v).advanceConfig
    | _ => t

/-- EVENT_LEVEL_WRITE (R119). -/
def execEventLevelWrite (v : Byte) (s : State) : Host.Outcome State Fault Refusal :=
  hostAccess s fun t =>
    match configTarget t.configAddr with
    | .eventLevel k => (t.writeEventLevel k v).advanceConfig
    | _ => t

/-- INT_CTRL_WRITE (R134). -/
def execIntCtrlWrite (v : Byte) (s : State) : Host.Outcome State Fault Refusal :=
  hostAccess s fun t =>
    match configTarget t.configAddr with
    | .intCtrl => (t.writeIntCtrl v).advanceConfig
    | _ => t

/-- WAKE_FLOOR_WRITE (R135). -/
def execWakeFloorWrite (v : Byte) (s : State) : Host.Outcome State Fault Refusal :=
  hostAccess s fun t =>
    match configTarget t.configAddr with
    | .wakeFloor => (t.writeWakeFloor v).advanceConfig
    | _ => t

/-- PULSE_WIDTH_WRITE (R139). -/
def execPulseWidthWrite (v : Byte) (s : State) : Host.Outcome State Fault Refusal :=
  hostAccess s fun t =>
    match configTarget t.configAddr with
    | .pulseWidth o => (t.writePulseWidth o v).advanceConfig
    | _ => t

/-- ARBITER_MODE_WRITE (R173). -/
def execArbiterModeWrite (v : Byte) (s : State) : Host.Outcome State Fault Refusal :=
  hostAccess s fun t =>
    match configTarget t.configAddr with
    | .arbiterMode => (t.writeArbiterMode v).advanceConfig
    | _ => t

end Sys2Proof.Machine
end

