-- ==== Sys2Proof/Machine/Input.lean ====
section
/-! DEFINITION. Meanings of the commands of the input lines (chapter 10): the receivers of CH0–CH2, the line scanner
of CH3, and host injection. An event of the receiver or of the scanner whose conditions do not hold is not taken and
changes nothing (log entry 3); a change of a line's level is recorded in every state (log entry 5). -/

namespace Sys2Proof.Machine

/-- The reception state after a frame's stop bit (R176): MARK_WAIT when it was at space. -/
def receptionAfter (f : Frame) : Reception := if f.stopMark then .idle else .markWait

/-- R176: the stop-bit sample ends the frame, and the entry it makes arrives at the channel's FIFO. -/
def State.endFrame (s : State) (i : SerialChannel) (f : Frame) : State :=
  State.arrive (s.modSer i fun x => { x with rxMark := f.stopMark, reception := receptionAfter f })
    (serialChannel i) (judgeFrame f (s.ser i).parity)

/-- FRAME_RECEIVED (R176). -/
def execFrameReceived (i : SerialChannel) (f : Frame) (s : State) : Host.Outcome State Fault Refusal :=
  afterGrant s fun t => if (t.ser i).reception = .frame then t.endFrame i f else t

/-- FRAME_START (R176): the receive line goes from mark to space; in IDLE that begins a frame. -/
def execFrameStart (i : SerialChannel) (s : State) : Host.Outcome State Fault Refusal :=
  afterGrant s fun t =>
    if (t.ser i).rxMark then
      t.modSer i fun x =>
        { x with rxMark := false, reception := if x.reception = .idle then .frame else x.reception }
    else t

/-- FALSE_START (R176): the middle of the start bit finds the line back at mark. -/
def execFalseStart (i : SerialChannel) (s : State) : Host.Outcome State Fault Refusal :=
  afterGrant s fun t =>
    if (t.ser i).reception = .frame then t.modSer i fun x => { x with rxMark := true, reception := .idle } else t

/-- MARK_WAIT_END (R177): the receive line goes from space to mark; in MARK_WAIT the receiver enters IDLE. -/
def execMarkWaitEnd (i : SerialChannel) (s : State) : Host.Outcome State Fault Refusal :=
  afterGrant s fun t =>
    if (t.ser i).rxMark then t
    else
      t.modSer i fun x =>
        { x with rxMark := true, reception := if x.reception = .markWait then .idle else x.reception }

/-- R180: what a raw change to `level` does to an enabled line with debounced level `d`. -/
def Line.changeRaw (l : Line) (d level : LineLevel) (now : Time) : Line :=
  if level = d then { l with raw := level, change := none }
  else { l with raw := level, change := some (l.change.getD ⟨level, now⟩) }

/-- R180: a raw change. With debounce time 0 the change is due, and taken, at the raw change itself. DESIGN CHOICE (log
entry 21): a raw change back to the debounced level cancels a pending change that is due and not yet taken. -/
def State.changeRawLevel (s : State) (n : LineNum) (level : LineLevel) : State :=
  match (s.line n).debounced with
  | none => s.modLine n fun l => { l with raw := level }
  | some d =>
    let t := s.modLine n fun l => l.changeRaw d level s.timeBase
    if s.debounce = 0 then t.takeChange n else t

/-- RAW_CHANGE (R180). -/
def execRawChange (n : LineNum) (level : LineLevel) (s : State) : Host.Outcome State Fault Refusal :=
  afterGrant s fun t => if (t.line n).raw = level then t else t.changeRawLevel n level

/-- DEBOUNCED_CHANGE (R180). -/
def execDebouncedChange (n : LineNum) (s : State) : Host.Outcome State Fault Refusal :=
  afterGrant s fun t => t.takeChange n

/-- INJECT (R184): a write to INJECT, for the channel named in CHAN_SEL. -/
def execInject (v : Byte) (s : State) : Host.Outcome State Fault Refusal :=
  hostAccess s fun t => t.injectByte t.chanSel v

end Sys2Proof.Machine
end

