-- ==== Sys2Proof/Machine/Timers.lean ====
section
/-! DEFINITION. Meanings of the time base and of the expiries that the time base brings (chapter 4, R143). An expiry
that cannot be taken is not taken and changes nothing (log entry 3). -/

namespace Sys2Proof.Machine

/-- The candidate of a channel's set that a pattern and a position name (R44). -/
def namesCandidate (n : PatternNum) (position : Nat) (c : Candidate) : Bool := c.pattern == n && c.position == position

/-- A candidate's gap deadline expires (R75, R78). -/
def State.expireGap (s : State) (ch : Channel) (n : PatternNum) (position : Nat) : State :=
  match ((s.chan ch).candidates.find? (namesCandidate n position)).bind (·.deadline) with
  | some d =>
    if s.expirable ch d then
      s.modChan ch fun c => { c with candidates := c.candidates.eraseP (namesCandidate n position) }
    else s
  | none => s

/-- GAP_DEADLINE_EXPIRY. -/
def execGapDeadlineExpiry (ch : Channel) (n : PatternNum) (position : Nat) (s : State) :
    Host.Outcome State Fault Refusal := afterGrant s fun t => t.expireGap ch n position

/-- A lockout record expires (R75, R81). -/
def State.expireLockout (s : State) (ch : Channel) (n : PatternNum) : State :=
  match (s.chan ch).lockouts.find? (fun r => r.pattern == n) with
  | some r =>
    if s.expirable ch r.expiry then
      s.modChan ch fun c => { c with lockouts := c.lockouts.eraseP fun r => r.pattern == n }
    else s
  | none => s

/-- LOCKOUT_EXPIRY. -/
def execLockoutExpiry (ch : Channel) (n : PatternNum) (s : State) : Host.Outcome State Fault Refusal :=
  afterGrant s fun t => t.expireLockout ch n

/-- A tail record expires (R75, R85). -/
def State.expireTail (s : State) (ch : Channel) : State :=
  match (s.chan ch).tail.bind (·.expiry) with
  | some d => if s.expirable ch d then s.modChan ch fun c => { c with tail := none } else s
  | none => s

/-- TAIL_EXPIRY. -/
def execTailExpiry (ch : Channel) (s : State) : Host.Outcome State Fault Refusal :=
  afterGrant s fun t => t.expireTail ch

/-- PULSE_EXPIRY (R143). -/
def execPulseExpiry (o : OutputNum) (s : State) : Host.Outcome State Fault Refusal :=
  afterGrant s fun t => t.expirePulse o

/-- R143, R180: what falls due when the time base reaches a value is taken at that value, so before the time base
leaves it (log entry 6). -/
def State.settleDue (s : State) : State := forEach allOutputs State.expirePulse s.takeDueChanges

/-- The time base passes to its next value (R71). -/
def State.advanceTime (s : State) : State := { s.settleDue with timeBase := s.timeBase + 1 }

/-- TIME_BASE_ADVANCE; the time base does not run while RESET is asserted (R191). -/
def execTimeBaseAdvance (s : State) : Host.Outcome State Fault Refusal :=
  .next (if s.inReset then s else s.grantTaken.advanceTime)

end Sys2Proof.Machine
end

