-- ==== Sys2Proof/Machine/Window.lean ====
section
/-! DEFINITION. Meanings of the host's accesses to the direct registers (chapter 11) and to the staging and class map
windows, and of the two controls of RESET. -/

namespace Sys2Proof.Machine

/-! ## RESET (R191) -/

/-- DEVICE_RESET: assertion puts the part in device reset and holds it there; release lets it run from there. -/
def execDeviceReset (asserted : Bool) (s : State) : Host.Outcome State Fault Refusal :=
  .next { s.deviceReset with inReset := asserted }

/-! ## The table controller's registers (R147–R150) -/

/-- A write to OPERAND: ignored while a command is pending (R149, R150). -/
def State.writeOperand (s : State) (v : Byte) : State :=
  if s.pendingCommand.isSome then s else { s with operand := v }

/-- A write to COMMAND: the byte becomes the pending command, and the table controller claims the pattern memory
(R149); ignored while a command is pending (R150). -/
def State.writeCommand (s : State) (v : Byte) : State :=
  if s.pendingCommand.isSome then s else State.arbitrate { s with pendingCommand := some v }

/-- A write to STAGE_ADDR (R147, R148). -/
def State.writeStageAddr (s : State) (v : Byte) : State :=
  if s.pendingCommand.isSome then s
  else if h : v.toNat < 58 then { s with stageAddr := ⟨v.toNat, h⟩ } else s

/-- A write to STAGE_DATA: bytes 8 and 9 do not take it, the address advances (R147); ignored while a command is
pending (R148). -/
def State.writeStageData (s : State) (v : Byte) : State :=
  if s.pendingCommand.isSome then s
  else
    { s with
      staging :=
        if s.stageAddr = 8 ∨ s.stageAddr = 9 then s.staging else s.staging.set s.stageAddr.val v s.stageAddr.isLt
      stageAddr := s.stageAddr + 1 }

/-- A read of STAGE_DATA advances the address, except while a command is pending (R147, R148). -/
def State.readStageData (s : State) : State :=
  if s.pendingCommand.isSome then s else { s with stageAddr := s.stageAddr + 1 }

/-! ## Address and selection registers (R193–R195) -/

/-- A write to CONFIG_ADDR (R194). -/
def State.writeConfigAddr (s : State) (v : Byte) : State :=
  if h : v.toNat < 64 then { s with configAddr := ⟨v.toNat, h⟩ } else s

/-- A write to CLASS_SEL (R195). -/
def State.writeClassSel (s : State) (v : Byte) : State :=
  if h : v.toNat < 4 then { s with classSel := ⟨v.toNat, h⟩ } else s

/-- A write to CLASS_ADDR (R195). -/
def State.writeClassAddr (s : State) (v : Byte) : State := { s with classAddr := v }

/-- A write to CHAN_SEL (R193). -/
def State.writeChanSel (s : State) (v : Byte) : State :=
  if h : v.toNat < 4 then { s with chanSel := ⟨v.toNat, h⟩ } else s

/-- R7: the class of one entry of a class map. -/
def State.setClass (s : State) (i : SerialChannel) (value : Byte) (c : ByteClass) : State :=
  s.modSer i fun x => { x with classMap := x.classMap.set value.toNat c value.isLt }

/-- A write to CLASS_DATA (R7, R195). -/
def State.writeClassData (s : State) (v : Byte) : State :=
  let t := match s.selectedMap?, classOf? v with
    | some i, some c => s.setClass i s.classAddr c
    | _, _ => s
  { t with classAddr := s.classAddr + 1 }

/-! ## Control registers (R114, R131, R197) -/

/-- A write to CHAN_CTRL, for the channel named in CHAN_SEL: the take first, the flush second (R114). -/
def State.writeChanCtrl (s : State) (v : Byte) : State :=
  let t := if bitAt v 0 then s.takeHead s.chanSel else s
  if bitAt v 1 then t.flushQueue t.chanSel else t

/-- A write to EVENT_CTRL (R131). -/
def State.writeEventCtrl (s : State) (v : Byte) : State :=
  let t := if bitAt v 1 then s.clearLost (BitVec.ofNat 4 (fieldAt v 4 4)) else s
  if bitAt v 0 then t.presentNext else t

/-- A write to any direct register (R192): a read-only register ignores it (R191). -/
def State.writeRegister (s : State) (addr : Fin 32) (v : Byte) : State :=
  match addr.val with
  | 0x02 => s.writeCommand v
  | 0x03 => s.writeOperand v
  | 0x05 => s.writeStageAddr v
  | 0x06 => s.writeStageData v
  | 0x07 => s.writeConfigAddr v
  | 0x08 => (s.writeConfigByte v).advanceConfig
  | 0x09 => s.writeClassSel v
  | 0x0A => s.writeClassAddr v
  | 0x0B => s.writeClassData v
  | 0x0C => s.writeEventCtrl v
  | 0x15 => s.writeOutputs v
  | 0x16 => s.writeChanSel v
  | 0x17 => s.writeChanCtrl v
  | 0x1C => s.injectByte s.chanSel v
  | _ => s

/-! ## The commands -/

/-- OPERAND_WRITE (R149). -/
def execOperandWrite (v : Byte) (s : State) : Host.Outcome State Fault Refusal :=
  hostAccess s fun t => t.writeOperand v

/-- COMMAND_WRITE (R149). -/
def execCommandWrite (v : Byte) (s : State) : Host.Outcome State Fault Refusal :=
  hostAccess s fun t => t.writeCommand v

/-- STAGE_ADDR_WRITE (R147). -/
def execStageAddrWrite (v : Byte) (s : State) : Host.Outcome State Fault Refusal :=
  hostAccess s fun t => t.writeStageAddr v

/-- STAGE_DATA_WRITE (R147). -/
def execStageDataWrite (v : Byte) (s : State) : Host.Outcome State Fault Refusal :=
  hostAccess s fun t => t.writeStageData v

/-- STAGE_DATA_READ (R147). -/
def execStageDataRead (s : State) : Host.Outcome State Fault Refusal :=
  hostRead s State.stageDataByte State.readStageData

/-- CONFIG_ADDR_WRITE (R194). -/
def execConfigAddrWrite (v : Byte) (s : State) : Host.Outcome State Fault Refusal :=
  hostAccess s fun t => t.writeConfigAddr v

/-- CONFIG_DATA_READ (R194). -/
def execConfigDataRead (s : State) : Host.Outcome State Fault Refusal :=
  hostRead s (fun t => t.configByte t.configAddr) State.advanceConfig

/-- CLASS_SEL_WRITE (R195). -/
def execClassSelWrite (v : Byte) (s : State) : Host.Outcome State Fault Refusal :=
  hostAccess s fun t => t.writeClassSel v

/-- CLASS_ADDR_WRITE (R195). -/
def execClassAddrWrite (v : Byte) (s : State) : Host.Outcome State Fault Refusal :=
  hostAccess s fun t => t.writeClassAddr v

/-- CLASS_DATA_WRITE (R7). -/
def execClassDataWrite (v : Byte) (s : State) : Host.Outcome State Fault Refusal :=
  hostAccess s fun t => t.writeClassData v

/-- CLASS_DATA_READ (R195). -/
def execClassDataRead (s : State) : Host.Outcome State Fault Refusal :=
  hostRead s State.classDataByte fun t => { t with classAddr := t.classAddr + 1 }

/-- CHAN_SEL_WRITE (R193). -/
def execChanSelWrite (v : Byte) (s : State) : Host.Outcome State Fault Refusal :=
  hostAccess s fun t => t.writeChanSel v

/-- TAKE (R111). -/
def execTake (s : State) : Host.Outcome State Fault Refusal := hostAccess s fun t => t.takeHead t.chanSel

/-- FLUSH (R113). -/
def execFlush (s : State) : Host.Outcome State Fault Refusal := hostAccess s fun t => t.flushQueue t.chanSel

/-- NEXT (R130). -/
def execNext (s : State) : Host.Outcome State Fault Refusal := hostAccess s State.presentNext

/-- CLEAR_LOST (R127). -/
def execClearLost (mask : BitVec 4) (s : State) : Host.Outcome State Fault Refusal :=
  hostAccess s fun t => t.clearLost mask

/-- OUTPUTS_WRITE (R144). -/
def execOutputsWrite (v : Byte) (s : State) : Host.Outcome State Fault Refusal :=
  hostAccess s fun t => t.writeOutputs v

/-- REGISTER_WRITE (R191): the host's write of a byte to a direct register, whatever the register takes of it. -/
def execRegisterWrite (addr : Fin 32) (v : Byte) (s : State) : Host.Outcome State Fault Refusal :=
  hostAccess s fun t => t.writeRegister addr v

end Sys2Proof.Machine
end

