-- ==== Sys2Proof/Machine/Dispatch.lean ====
section
/-! DEFINITION. The meaning of every command, one arm per row of spec/opcode_table.json, in the table's order. -/

namespace Sys2Proof.Machine

/-- The effect of a command on everything but the queue of waiting commands. -/
def exec (i : Instr) (s : State) : Host.Outcome State Fault Refusal :=
  match i with
  | .deviceReset asserted => Sys2Proof.Machine.execDeviceReset asserted s
  | .frameReceived ch frame => Sys2Proof.Machine.execFrameReceived ch frame s
  | .markWaitEnd ch => Sys2Proof.Machine.execMarkWaitEnd ch s
  | .rawChange n level => Sys2Proof.Machine.execRawChange n level s
  | .debouncedChange n => Sys2Proof.Machine.execDebouncedChange n s
  | .takePlainByte ch => Sys2Proof.Machine.execTakePlainByte ch s
  | .takeLeadByte ch => Sys2Proof.Machine.execTakeLeadByte ch s
  | .takeReleaseByte ch => Sys2Proof.Machine.execTakeReleaseByte ch s
  | .takeDropByte ch => Sys2Proof.Machine.execTakeDropByte ch s
  | .takeErrorEntry ch => Sys2Proof.Machine.execTakeErrorEntry ch s
  | .takeBreakEntry ch => Sys2Proof.Machine.execTakeBreakEntry ch s
  | .overrunTake ch => Sys2Proof.Machine.execOverrunTake ch s
  | .takeLineEntry => Sys2Proof.Machine.execTakeLineEntry s
  | .prefixExpiry ch => Sys2Proof.Machine.execPrefixExpiry ch s
  | .grantEnd => Sys2Proof.Machine.execGrantEnd s
  | .matchPass => Sys2Proof.Machine.execMatchPass s
  | .gapDeadlineExpiry ch p k => Sys2Proof.Machine.execGapDeadlineExpiry ch p k s
  | .lockoutExpiry ch p => Sys2Proof.Machine.execLockoutExpiry ch p s
  | .tailExpiry ch => Sys2Proof.Machine.execTailExpiry ch s
  | .pulseExpiry out => Sys2Proof.Machine.execPulseExpiry out s
  | .define => Sys2Proof.Machine.execDefine s
  | .arm => Sys2Proof.Machine.execArm s
  | .disarm => Sys2Proof.Machine.execDisarm s
  | .delete => Sys2Proof.Machine.execDelete s
  | .readBack => Sys2Proof.Machine.execReadBack s
  | .clearLockout => Sys2Proof.Machine.execClearLockout s
  | .compact => Sys2Proof.Machine.execCompact s
  | .runtimeReset => Sys2Proof.Machine.execRuntimeReset s
  | .badCommand => Sys2Proof.Machine.execBadCommand s
  | .compactionMove => Sys2Proof.Machine.execCompactionMove s
  | .compactionEnd => Sys2Proof.Machine.execCompactionEnd s
  | .operandWrite v => Sys2Proof.Machine.execOperandWrite v s
  | .stageAddrWrite v => Sys2Proof.Machine.execStageAddrWrite v s
  | .stageDataWrite v => Sys2Proof.Machine.execStageDataWrite v s
  | .stageDataRead => Sys2Proof.Machine.execStageDataRead s
  | .configAddrWrite v => Sys2Proof.Machine.execConfigAddrWrite v s
  | .configDataRead => Sys2Proof.Machine.execConfigDataRead s
  | .modeToOff => Sys2Proof.Machine.execModeToOff s
  | .modeOutOfOff v => Sys2Proof.Machine.execModeOutOfOff v s
  | .modeBypassMatch v => Sys2Proof.Machine.execModeBypassMatch v s
  | .lineSettingsWrite v => Sys2Proof.Machine.execLineSettingsWrite v s
  | .prefixWindowWrite v => Sys2Proof.Machine.execPrefixWindowWrite v s
  | .holdLimitWrite v => Sys2Proof.Machine.execHoldLimitWrite v s
  | .tailWindowWrite v => Sys2Proof.Machine.execTailWindowWrite v s
  | .linesEnableWrite v => Sys2Proof.Machine.execLinesEnableWrite v s
  | .linesPolarityWrite v => Sys2Proof.Machine.execLinesPolarityWrite v s
  | .debounceWrite v => Sys2Proof.Machine.execDebounceWrite v s
  | .eventLevelWrite v => Sys2Proof.Machine.execEventLevelWrite v s
  | .intCtrlWrite v => Sys2Proof.Machine.execIntCtrlWrite v s
  | .wakeFloorWrite v => Sys2Proof.Machine.execWakeFloorWrite v s
  | .pulseWidthWrite v => Sys2Proof.Machine.execPulseWidthWrite v s
  | .arbiterModeWrite v => Sys2Proof.Machine.execArbiterModeWrite v s
  | .classSelWrite v => Sys2Proof.Machine.execClassSelWrite v s
  | .classAddrWrite v => Sys2Proof.Machine.execClassAddrWrite v s
  | .classDataWrite v => Sys2Proof.Machine.execClassDataWrite v s
  | .classDataRead => Sys2Proof.Machine.execClassDataRead s
  | .chanSelWrite v => Sys2Proof.Machine.execChanSelWrite v s
  | .take => Sys2Proof.Machine.execTake s
  | .flush => Sys2Proof.Machine.execFlush s
  | .next => Sys2Proof.Machine.execNext s
  | .clearLost mask => Sys2Proof.Machine.execClearLost mask s
  | .outputsWrite v => Sys2Proof.Machine.execOutputsWrite v s
  | .inject v => Sys2Proof.Machine.execInject v s
  | .registerWrite addr v => Sys2Proof.Machine.execRegisterWrite addr v s
  | .commandWrite v => Sys2Proof.Machine.execCommandWrite v s
  | .frameStart ch => Sys2Proof.Machine.execFrameStart ch s
  | .falseStart ch => Sys2Proof.Machine.execFalseStart ch s
  | .timeBaseAdvance => Sys2Proof.Machine.execTimeBaseAdvance s

end Sys2Proof.Machine
end

