-- ==== Sys2Proof/Safety.lean ====
section
/-! DEFINITION. What the statements speak of: which commands are host accesses, which symbol a take makes,
the layouts of the bytes that the host reads and writes, and the properties that hold of the part between any two
commands, each from the rule that states it. -/

namespace Sys2Proof.Machine

/-! ## Host accesses (R191) -/

/-- The commands that are one write of the host to a direct register. -/
def isHostWrite : Instr → Bool
  | .operandWrite _ | .commandWrite _ | .stageAddrWrite _ | .stageDataWrite _ => true
  | .configAddrWrite _ | .modeToOff | .modeOutOfOff _ | .modeBypassMatch _ | .lineSettingsWrite _ => true
  | .prefixWindowWrite _ | .holdLimitWrite _ | .tailWindowWrite _ => true
  | .linesEnableWrite _ | .linesPolarityWrite _ | .debounceWrite _ => true
  | .eventLevelWrite _ | .intCtrlWrite _ | .wakeFloorWrite _ | .pulseWidthWrite _ | .arbiterModeWrite _ => true
  | .classSelWrite _ | .classAddrWrite _ | .classDataWrite _ | .chanSelWrite _ => true
  | .take | .flush | .next | .clearLost _ | .outputsWrite _ | .inject _ | .registerWrite _ _ => true
  | .deviceReset _ | .frameReceived _ _ | .markWaitEnd _ | .rawChange _ _ | .debouncedChange _ => false
  | .takePlainByte _ | .takeLeadByte _ | .takeReleaseByte _ | .takeDropByte _ => false
  | .takeErrorEntry _ | .takeBreakEntry _ | .overrunTake _ | .takeLineEntry | .prefixExpiry _ => false
  | .grantEnd | .matchPass | .gapDeadlineExpiry _ _ _ | .lockoutExpiry _ _ | .tailExpiry _ | .pulseExpiry _ => false
  | .define | .arm | .disarm | .delete | .readBack | .clearLockout | .compact | .runtimeReset | .badCommand => false
  | .compactionMove | .compactionEnd | .stageDataRead | .configDataRead | .classDataRead => false
  | .frameStart _ | .falseStart _ | .timeBaseAdvance => false

/-! ## The event of a grant (R172) -/

/-- The commands that are the event of a grant: the pass, the table commands and the steps of a compaction. -/
def isGrantEvent : Instr → Bool
  | .matchPass | .compactionMove | .compactionEnd => true
  | .define | .arm | .disarm | .delete | .readBack | .clearLockout | .compact | .runtimeReset | .badCommand => true
  | .deviceReset _ | .frameReceived _ _ | .markWaitEnd _ | .rawChange _ _ | .debouncedChange _ => false
  | .frameStart _ | .falseStart _ | .timeBaseAdvance | .grantEnd => false
  | .takePlainByte _ | .takeLeadByte _ | .takeReleaseByte _ | .takeDropByte _ => false
  | .takeErrorEntry _ | .takeBreakEntry _ | .overrunTake _ | .takeLineEntry | .prefixExpiry _ => false
  | .gapDeadlineExpiry _ _ _ | .lockoutExpiry _ _ | .tailExpiry _ | .pulseExpiry _ => false
  | .operandWrite _ | .commandWrite _ | .stageAddrWrite _ | .stageDataWrite _ | .stageDataRead => false
  | .configAddrWrite _ | .configDataRead | .modeToOff | .modeOutOfOff _ | .modeBypassMatch _ => false
  | .lineSettingsWrite _ | .prefixWindowWrite _ | .holdLimitWrite _ | .tailWindowWrite _ => false
  | .linesEnableWrite _ | .linesPolarityWrite _ | .debounceWrite _ => false
  | .eventLevelWrite _ | .intCtrlWrite _ | .wakeFloorWrite _ | .pulseWidthWrite _ | .arbiterModeWrite _ => false
  | .classSelWrite _ | .classAddrWrite _ | .classDataWrite _ | .classDataRead | .chanSelWrite _ => false
  | .take | .flush | .next | .clearLost _ | .outputsWrite _ | .inject _ | .registerWrite _ _ => false

/-- No grant is made whose event is still to be taken (R172, log entry 4). -/
abbrev Settled (s : State) : Prop := s.grant ≠ .decided .matchUnit ∧ s.grant ≠ .decided .table

/-! ## Frames and prefixes -/

/-- An odd number of the bits of a byte are at mark (R176). -/
def oddMarks (b : Byte) : Bool :=
  bitAt b 0 ^^ bitAt b 1 ^^ bitAt b 2 ^^ bitAt b 3 ^^ bitAt b 4 ^^ bitAt b 5 ^^ bitAt b 6 ^^ bitAt b 7

/-- The assembler as a byte stamped `t` finds it (R15): a prefix whose deadline is earlier than `t` is gone. -/
def Serial.assemblerAt (x : Serial) (t : Time) : Assembler :=
  if (x.assembler.ext ≠ .plain ∨ x.assembler.rel = true) ∧ x.prefixWindow ≠ 0
      ∧ ∃ p ∈ x.assembler.prefixStamp, p + x.prefixWindow.toNat < t then
    ⟨.plain, false, none⟩
  else x.assembler

/-- The channel can take, and `e` heads its FIFO with `rest` behind it (R5); no event of a grant is outstanding. -/
def TakesFrom (s : State) (ch : Channel) (e : RawEntry) (rest : List RawEntry) : Prop :=
  Settled s ∧ (s.chan ch).mode ≠ .off ∧ (s.chan ch).ready = none ∧ (s.chan ch).fifo = e :: rest

/-- What a take that makes a symbol leaves of its channel, the symbol not yet placed: the FIFO given and the arrival
number used (R3, R5). -/
def Chan.afterTake (c : Chan) (rest : List RawEntry) : Chan :=
  { c with fifo := rest, arrivalCounter := c.arrivalCounter + 1 }

/-- `SymbolMade s c ch x u`: taken on `s`, the command `c` makes the symbol `x` on the channel `ch`, and `u` is the
state in which it is then placed in the ready slot. One case for each command that makes a symbol. -/
inductive SymbolMade (s : State) : Instr → Channel → Symbol → State → Prop
  /-- R13: a PLAIN byte takes the prefix that R15 leaves. -/
  | plain (i : SerialChannel) (v : Byte) (t : Time) (rest : List RawEntry)
      (takes : TakesFrom s (serialChannel i) ⟨.byte v, t⟩ rest)
      (noOverrun : (s.chan (serialChannel i)).overrunPending = false)
      (plain : (s.ser i).classMap[v.toNat] = .plain) :
      SymbolMade s (.takePlainByte i) (serialChannel i)
        ⟨serialChannel i, .data, v, ((s.ser i).assemblerAt t).ext, ((s.ser i).assemblerAt t).rel, none, t,
          (s.chan (serialChannel i)).arrivalCounter⟩
        ((s.modChan (serialChannel i) fun c => c.afterTake rest).modSer i fun x =>
          { x with assembler := ⟨.plain, false, none⟩ })
  /-- R18: an ERROR entry; the LINE_ERROR event is offered. -/
  | error (i : SerialChannel) (v : Byte) (type : LineError) (t : Time) (rest : List RawEntry)
      (takes : TakesFrom s (serialChannel i) ⟨.error v type, t⟩ rest)
      (noOverrun : (s.chan (serialChannel i)).overrunPending = false) :
      SymbolMade s (.takeErrorEntry i) (serialChannel i)
        ⟨serialChannel i, .error, v, .plain, false,
          some (match type with | .parity => .parity | .framing => .framing), t,
          (s.chan (serialChannel i)).arrivalCounter⟩
        (State.offer ((s.modChan (serialChannel i) fun c => c.afterTake rest).modSer i fun x =>
            { x with assembler := ⟨.plain, false, none⟩ })
          ⟨.lineError, some (serialChannel i), none, none, t⟩)
  /-- R19: a BREAK entry. -/
  | brk (i : SerialChannel) (t : Time) (rest : List RawEntry)
      (takes : TakesFrom s (serialChannel i) ⟨.brk, t⟩ rest)
      (noOverrun : (s.chan (serialChannel i)).overrunPending = false) :
      SymbolMade s (.takeBreakEntry i) (serialChannel i)
        ⟨serialChannel i, .brk, 0, .plain, false, none, t, (s.chan (serialChannel i)).arrivalCounter⟩
        ((s.modChan (serialChannel i) fun c => c.afterTake rest).modSer i fun x =>
          { x with assembler := ⟨.plain, false, none⟩ })
  /-- R20 on CH0–CH2: the head entry stays. -/
  | overrun (i : SerialChannel) (e : RawEntry) (rest : List RawEntry)
      (takes : TakesFrom s (serialChannel i) e rest)
      (isPending : (s.chan (serialChannel i)).overrunPending = true) :
      SymbolMade s (.overrunTake (serialChannel i)) (serialChannel i)
        ⟨serialChannel i, .error, 0, .plain, false, some .overrun, e.stamp,
          (s.chan (serialChannel i)).arrivalCounter⟩
        ((s.modChan (serialChannel i) fun c => { c.afterTake (e :: rest) with overrunPending := false }).modSer i
          fun x => { x with assembler := ⟨.plain, false, none⟩ })
  /-- R20 on CH3, which has no assembler. -/
  | overrunOnLines (e : RawEntry) (rest : List RawEntry)
      (takes : TakesFrom s lineChannel e rest) (isPending : (s.chan lineChannel).overrunPending = true) :
      SymbolMade s (.overrunTake lineChannel) lineChannel
        ⟨lineChannel, .error, 0, .plain, false, some .overrun, e.stamp, (s.chan lineChannel).arrivalCounter⟩
        (s.modChan lineChannel fun c => { c.afterTake (e :: rest) with overrunPending := false })
  /-- R21: a LINE entry on CH3. -/
  | line (num : LineNum) (active : Bool) (t : Time) (rest : List RawEntry)
      (takes : TakesFrom s lineChannel ⟨.line num active, t⟩ rest)
      (noOverrun : (s.chan lineChannel).overrunPending = false) :
      SymbolMade s .takeLineEntry lineChannel
        ⟨lineChannel, .line, BitVec.ofNat 8 num.val, .plain, !active, none, t,
          (s.chan lineChannel).arrivalCounter⟩
        (s.modChan lineChannel fun c => c.afterTake rest)

/-! ## Layouts of what the host reads and writes (sections 11.3 and 11.4) -/

/-- The byte that CONFIG_DATA reads at an address of the configuration space (R194). -/
def ConfigShows (s : State) (a : Fin 64) (b : Byte) : Prop :=
  (∀ ch : Channel, a.val = ch.val → b = match (s.chan ch).mode with | .off => 0 | .bypass => 1 | .matching => 2)
    ∧ (∀ i : SerialChannel, a.val = 0x04 + i.val → b.toNat = (s.ser i).baud.val
        + match (s.ser i).parity with | .off => 0 | .even => 8 | .odd => 16)
    ∧ (∀ i : SerialChannel, a.val = 0x07 + i.val → b = (s.ser i).prefixWindow)
    ∧ (∀ ch : Channel, a.val = 0x0A + ch.val → b = BitVec.ofNat 8 (s.chan ch).holdLimit)
    ∧ (∀ ch : Channel, a.val = 0x0E + ch.val → b = (s.chan ch).tailWindow)
    ∧ (a.val = 0x12 → ∀ n : LineNum, b.getLsbD n.val = (s.line n).enabled)
    ∧ (a.val = 0x13 → ∀ n : LineNum, b.getLsbD n.val = (s.line n).activeHigh)
    ∧ (a.val = 0x14 → b = s.debounce)
    ∧ (∀ k : Fin 7, a.val = 0x15 + k.val → b.toNat = match s.eventLevels[k] with | some l => l.val | none => 4)
    ∧ (a.val = 0x1C → b.toNat = s.intFloor.val + if s.intEnable then 128 else 0)
    ∧ (a.val = 0x1D → b.toNat = s.wakeFloor.val)
    ∧ (∀ o : OutputNum, a.val = 0x1E + o.val → b = (s.output o).width)
    ∧ (a.val = 0x22 → b = match s.arbiterMode with | .matchFirst => 0 | .tableFirst => 1 | .alternate => 2)
    ∧ (0x22 < a.val → b = 0)

/-- The byte that CLASS_DATA reads (R195). -/
def ClassShows (s : State) (b : Byte) : Prop :=
  (s.classSel = 3 → b = 0) ∧ ∀ i : SerialChannel, s.classSel.val = i.val →
    b = match (s.ser i).classMap[s.classAddr.toNat] with
      | .plain => 0 | .leadA => 1 | .leadB => 2 | .release => 3 | .drop => 4

/-- The ten header bytes and the element triples of a staging record hold the pattern `p` and the elements `es`, each
field in its bits (section 11.4.5); unused bits and the start may hold anything. -/
def LaysOut (r : Vector Byte 58) (p : Pattern) (es : List Element) : Prop :=
  r[0].toNat % 16 = p.channels.toNat ∧ r[0].toNat / 16 % 4 = p.level.val
    ∧ r[1].toNat % 32 = p.length ∧ r[2] = p.tag ∧ r[3] = p.gap
    ∧ r[4].getLsbD 0 = p.pressOnly ∧ r[4].getLsbD 1 = p.swallow ∧ r[4].toNat / 4 % 8 = p.tail.val
    ∧ r[4].getLsbD 5 = p.lockout ∧ r[4].getLsbD 6 = p.oneShot ∧ r[4].getLsbD 7 = p.clearOnComplete
    ∧ r[5].toNat % 16 = p.threshold.val
    ∧ r[5].toNat / 16 % 8 = (match p.actionOutput with | none => 0 | some o => o.val + 1)
    ∧ r[6] = p.lockoutTime
    ∧ r[7].toNat % 4 = (match p.actionMode with | .set => 0 | .clear => 1 | .toggle => 2 | .pulse => 3)
    ∧ es.length = p.length
    ∧ ∀ k, ∀ e ∈ es[k]?, r[10 + 3 * k]? = some e.code
        ∧ (∃ b, r[11 + 3 * k]? = some b
          ∧ b.toNat % 4 = (match e.kind with | .symbol => 0 | .any => 1 | .brk => 2)
          ∧ b.toNat / 4 % 4 = (match e.extension with | .plain => 0 | .a => 1 | .b => 2 | .either => 3)
          ∧ b.toNat / 16 % 4 = (match e.release with | .press => 0 | .release => 1 | .either => 2))
        ∧ ∃ b, r[12 + 3 * k]? = some b ∧ b.toNat % 16 = e.width.val

/-- R38's conditions on the fields of the header. -/
def HeaderValid (p : Pattern) : Prop :=
  1 ≤ p.length ∧ p.length ≤ 16 ∧ p.channels ≠ 0
    ∧ (p.lockout = true → 1 ≤ p.threshold.val ∧ p.threshold.val < p.length ∧ p.lockoutTime ≠ 0)
    ∧ (p.tail ≠ 0 → p.swallow = true)

/-- R38's conditions on an element of the pattern. -/
def ElementValid (p : Pattern) (e : Element) : Prop :=
  (e.kind = .symbol → 1 ≤ e.width.val ∧ e.width.val ≤ 8) ∧ ¬(p.pressOnly = true ∧ e.release = .release)

/-! ## Claims and grants (R47, R166, R172) -/

/-- A channel holds a symbol for the match unit (R47). -/
def ReadyChannel (s : State) (ch : Channel) : Prop := (s.chan ch).mode = .matching ∧ (s.chan ch).ready ≠ none

/-- The match unit's claim (R47). -/
def MatchWaits (s : State) : Prop := ∃ ch, ReadyChannel s ch

/-- The table controller's claim (R166). -/
def TableWaits (s : State) : Prop := s.pendingCommand ≠ none ∨ s.compacting = true

/-- The arbiter has decided for the match unit, and R48 chooses the channel `ch`, whose ready slot holds `x`: the first
ready channel after the one served last, in cyclic order. -/
def PassServes (s : State) (ch : Channel) (x : Symbol) : Prop :=
  s.grant = .decided .matchUnit ∧ (s.chan ch).mode = .matching ∧ (s.chan ch).ready = some x
    ∧ ∃ k : Fin 4, ch = s.lastServed + 1 + k ∧ ∀ j : Fin 4, j < k → ¬ReadyChannel s (s.lastServed + 1 + j)

/-- The table controller holds a decided grant for its pending command `code`. -/
def CommandGranted (s : State) (code : Byte) : Prop :=
  s.grant = .decided .table ∧ s.pendingCommand = some code

/-- The table controller holds a decided grant for the next step of a compaction (R166). -/
def StepGranted (s : State) : Prop :=
  s.grant = .decided .table ∧ s.compacting = true ∧ s.pendingCommand = none

/-- R151: what the taking of a command leaves, its effect `u` apart. -/
def State.recorded (u : State) (code : Byte) (r : Result) : State :=
  { u with grant := .held .table, lastGrant := .table, lastCommand := some code, result := r, pendingCommand := none }

/-- `P n` is the one ARMED pattern, with record `r`. -/
def OnlyArmed (s : State) (n : PatternNum) (r : Stored) : Prop :=
  s.slot n = .armed r ∧ ∀ m, m ≠ n → (s.slot m).armed? = none

/-! ## Waiting (R74) -/

/-- Something waits on the channel with a stamp at or before `d` (R74). -/
def WaitsBy (s : State) (ch : Channel) (d : Time) : Prop :=
  (∃ e ∈ (s.chan ch).fifo, e.stamp ≤ d)
    ∨ (∃ i : SerialChannel, serialChannel i = ch
        ∧ ((s.ser i).assembler.ext ≠ .plain ∨ (s.ser i).assembler.rel = true)
        ∧ ∃ p ∈ (s.ser i).assembler.prefixStamp, p ≤ d)
    ∨ ∃ x ∈ (s.chan ch).ready, x.stamp ≤ d

/-! ## Properties that every command keeps -/

/-- R133: each of INT and WAKE follows its condition. -/
def LinesFollowQueue (s : State) : Prop :=
  (s.intLine = true ↔ ∃ e ∈ s.eventQueue, e.level = 3 ∨ (s.intEnable = true ∧ s.intFloor ≤ e.level))
    ∧ (s.wakeLine = true ↔ ∃ e ∈ s.eventQueue, s.wakeFloor.val ≤ e.level.val)

/-- R182, R88, R44, R123: no queue exceeds its capacity. -/
def WithinCapacity (s : State) : Prop :=
  (∀ ch, (s.chan ch).fifo.length ≤ 8 ∧ (s.chan ch).queue.length ≤ 32 ∧ (s.chan ch).candidates.length ≤ 12)
    ∧ s.eventQueue.length ≤ 32

/-- R175, R177, R8, R9: a receiver is STOPPED exactly while its channel is in OFF, IDLE only at mark and MARK_WAIT
only at space; an assembler has a prefix stamp exactly while a prefix is pending, and none in OFF. -/
def ReceiversConsistent (s : State) : Prop :=
  ∀ i, ((s.ser i).reception = .stopped ↔ (s.chan (serialChannel i)).mode = .off)
    ∧ ((s.ser i).reception = .idle → (s.ser i).rxMark = true)
    ∧ ((s.ser i).reception = .markWait → (s.ser i).rxMark = false)
    ∧ ((s.ser i).assembler.prefixStamp ≠ none ↔
        (s.ser i).assembler.ext ≠ .plain ∨ (s.ser i).assembler.rel = true)
    ∧ ((s.chan (serialChannel i)).mode = .off → (s.ser i).assembler = ⟨.plain, false, none⟩)

/-- R179, R180: an enabled line keeps a debounced level, and a pending change exactly while its raw level is the
other one; a disabled line keeps neither. -/
def LinesConsistent (s : State) : Prop :=
  ∀ n, ((s.line n).enabled = true ↔ (s.line n).debounced ≠ none)
    ∧ ((s.line n).debounced = none → (s.line n).change = none)
    ∧ ∀ d, (s.line n).debounced = some d →
        (s.line n).change.map (·.level) = if (s.line n).raw = d then none else some (s.line n).raw

/-- R138: a pulsing output is HIGH, and a pulse width is 1–255. -/
def OutputsConsistent (s : State) : Prop :=
  ∀ o, ((s.output o).deadline ≠ none → (s.output o).level = .high) ∧ (s.output o).width ≠ 0

/-- R47, R172: a symbol waits in a ready slot only in MATCH; while the memory is free nobody claims it, and a claimant
that the arbiter has decided for still claims it. -/
def GrantConsistent (s : State) : Prop :=
  (∀ ch, (s.chan ch).ready ≠ none → (s.chan ch).mode = .matching)
    ∧ (s.grant = .free → ¬MatchWaits s ∧ ¬TableWaits s)
    ∧ (s.grant = .decided .matchUnit → MatchWaits s)
    ∧ (s.grant = .decided .table → TableWaits s)

/-- The symbols a channel holds, in the order they were made: the delivery queue, then the ready slot. -/
def Chan.symbols (c : Chan) : List Symbol := c.queue ++ c.ready.toList

/-- R1, R3, R88, R183: the symbols that a channel holds have strictly increasing arrival numbers, below the counter;
the stamps of its symbols and then of its raw entries never decrease and do not exceed the time base; an overrun is
pending only on a full FIFO. -/
def ArrivalsOrdered (s : State) : Prop :=
  ∀ ch, ((s.chan ch).symbols.map (·.arrival)).Pairwise (· < ·)
    ∧ (∀ x ∈ (s.chan ch).symbols, x.arrival < (s.chan ch).arrivalCounter)
    ∧ ((s.chan ch).symbols.map (·.stamp) ++ (s.chan ch).fifo.map (·.stamp)).Pairwise (· ≤ ·)
    ∧ (∀ x ∈ (s.chan ch).symbols, x.stamp ≤ s.timeBase)
    ∧ (∀ e ∈ (s.chan ch).fifo, e.stamp ≤ s.timeBase)
    ∧ ((s.chan ch).overrunPending = true → 8 ≤ (s.chan ch).fifo.length)

/-- R26, R38, R39: the pattern of every slot that is not FREE is valid, its run lies in the pool, and runs are
pairwise disjoint. -/
def PoolConsistent (s : State) : Prop :=
  (∀ n r, (s.slot n).record? = some r → r.pattern.valid = true ∧ r.start + r.pattern.length ≤ 512)
    ∧ ∀ n m r q, n ≠ m → (s.slot n).record? = some r → (s.slot m).record? = some q →
        r.start + r.pattern.length ≤ q.start ∨ q.start + q.pattern.length ≤ r.start

/-- R43, R44: a candidate of `ch`: of an ARMED pattern that lists the channel and has no lockout record there, at a
position from 1 to the length less 1, with a deadline exactly when the gap is not 0, born before the symbols to come. -/
def CandidateSound (s : State) (ch : Channel) (c : Candidate) : Prop :=
  (∃ r, s.slot c.pattern = .armed r ∧ r.pattern.channels.getLsbD ch.val = true
      ∧ 1 ≤ c.position ∧ c.position < r.pattern.length ∧ (c.deadline ≠ none ↔ r.pattern.gap ≠ 0))
    ∧ c.birth < (s.chan ch).arrivalCounter
    ∧ (∀ x ∈ (s.chan ch).ready, c.birth < x.arrival)
    ∧ ∀ l ∈ (s.chan ch).lockouts, l.pattern ≠ c.pattern

/-- R42–R44, R46, R83: the match contexts. Outside MATCH they are empty; candidates stand in birth order and, born
together, in pattern-number order, no two with the same pattern and position; a pattern has at most one lockout record
on a channel, and only while it is an ARMED LOCKOUT pattern that lists the channel. -/
def ContextsConsistent (s : State) : Prop :=
  ∀ ch, ((s.chan ch).mode ≠ .matching →
        (s.chan ch).candidates = [] ∧ (s.chan ch).lockouts = [] ∧ (s.chan ch).tail = none)
    ∧ (∀ c ∈ (s.chan ch).candidates, CandidateSound s ch c)
    ∧ (s.chan ch).candidates.Pairwise (fun a b =>
        (a.birth < b.birth ∨ a.birth = b.birth ∧ a.pattern < b.pattern)
          ∧ ¬(a.pattern = b.pattern ∧ a.position = b.position))
    ∧ ((s.chan ch).lockouts.map (·.pattern)).Nodup
    ∧ ∀ l ∈ (s.chan ch).lockouts, ∃ r, s.slot l.pattern = .armed r
        ∧ r.pattern.channels.getLsbD ch.val = true ∧ r.pattern.lockout = true

/-- The entries of a queue that the candidates `cs` hold (R91): some swallowing one was born at or before them. -/
def heldUnder (s : State) (queue : List Symbol) (cs : List Candidate) : List Symbol :=
  queue.filter fun x => cs.any fun c => s.swallowing c && decide (c.birth ≤ x.arrival)

/-- The entries of a channel's queue that are held (R91). -/
def heldEntries (s : State) (ch : Channel) : List Symbol := heldUnder s (s.chan ch).queue (s.chan ch).candidates

/-- R105: of the candidates `before`, the cancellation of `gone` leaves `after`: the swallowing candidates go from the
front of the set, where the oldest stand (R44), as few as bring the held entries of the queue down to the limit. -/
def HoldEnforced (s : State) (queue : List Symbol) (limit : Nat) (before gone after : List Candidate) : Prop :=
  after.Sublist before
    ∧ after.filter (fun c => !s.swallowing c) = before.filter (fun c => !s.swallowing c)
    ∧ before.filter s.swallowing = gone ++ after.filter s.swallowing
    ∧ (heldUnder s queue after).length ≤ limit
    ∧ ∀ pre post, gone = pre ++ post → post ≠ [] → limit < (heldUnder s queue (post ++ after)).length

/-- The HOLD_CANCEL offers of the candidates `gone` of a channel, the first cancelled first (R105, R107). -/
def State.offerHoldCancels (s : State) (ch : Channel) (gone : List Candidate) (stamp : Time) : State :=
  gone.foldl (fun u c => u.offer ⟨.holdCancel, some ch, some c.pattern, none, stamp⟩) s

/-- R104: on every channel the held entries do not exceed the hold limit, which is 1–32. -/
def HeldWithinLimit (s : State) : Prop :=
  ∀ ch, 1 ≤ (s.chan ch).holdLimit ∧ (s.chan ch).holdLimit ≤ 32
    ∧ (heldEntries s ch).length ≤ (s.chan ch).holdLimit

/-- R191: while RESET is asserted every block stays at its device reset value. -/
def HeldInReset (s : State) : Prop := s.inReset = true → { s.deviceReset with inReset := true } = s

end Sys2Proof.Machine
end

