-- ==== Sys2Proof/Certificates/Slice0/Obligations.lean ====
section
/-! DEFINITION. The statements for the provers, in the order of the manual's chapters; OBLIGATIONS.json gives each its
title and the rules it rests on. Most of those on one command ask that no event of a grant be outstanding (`Settled`);
GrantEndDecides says that with one outstanding the command answers what it answers after that event (log entry 4). -/

open Sys2Proof Sys2Proof.Machine

/-! ## The machine, reset and the host's accesses -/

/-- A step runs the command at the front of the queue, on the state with the queue's rest; with nothing waiting the
machine idles (the idling is the model's choice, log entry 7). -/
def Obligations.StepRunsFrontCommand : Prop :=
  ∀ (c : Instr) (rest : List Instr) (s : State),
    step { s with pending := c :: rest } = exec c { s with pending := rest } ∧ (s.pending = [] → step s = .next s)

/-- Totality alone: no command ends in a fault or a refusal, and none touches the commands that wait. That a command
whose conditions do not hold answers a next state at all rests on the model's readings (log entries 3 and 15), and that
the queue stays across DEVICE_RESET on its choice (log entry 8); what each command does is in the statements below. -/
def Obligations.EveryCommandAnswers : Prop :=
  ∀ (c : Instr) (s : State), ∃ t, exec c s = .next t ∧ t.pending = s.pending

/-- R191 and the reset values of every chapter: DEVICE_RESET puts every block at its reset value. Not the manual's but
the model's choice are these: the levels on the receive and discrete lines and the waiting commands stay (log entries 2
and 8), the data bus latch of the model clears (log entry 9), and a grant in force ends, `t.grant = .free` (log entry
20; section 9.3 gives reset values for the mode and the last grant alone). -/
def Obligations.DeviceResetValues : Prop :=
  ∀ (asserted : Bool) (s : State), ∃ t, exec (.deviceReset asserted) s = .next t
    ∧ t.inReset = asserted ∧ t.dataOut = 0 ∧ t.pending = s.pending
    ∧ (∀ i, t.ser i = ⟨(s.ser i).rxMark, 3, .off, .stopped, ⟨.plain, false, none⟩, 20, Vector.replicate 256 .plain⟩)
    ∧ (∀ n, t.line n = ⟨(s.line n).raw, false, false, none, none⟩) ∧ t.debounce = 10
    ∧ (∀ ch, t.chan ch = ⟨.off, [], false, false, none, 0, [], [], none, [], none, false, 16, 100⟩)
    ∧ (∀ n, t.slot n = .free) ∧ t.lastServed = 3
    ∧ t.eventQueue = [] ∧ t.presented = none ∧ (∀ l : EventLevel, t.lostMask[l] = false) ∧ t.eventSeq = 0
    ∧ (∀ k : Fin 7, t.eventLevels[k] = none)
    ∧ t.intEnable = false ∧ t.intFloor = 0 ∧ t.wakeFloor = 4 ∧ t.intLine = false ∧ t.wakeLine = false
    ∧ (∀ o, t.output o = ⟨.low, none, 10⟩)
    ∧ (∀ a : Fin 58, t.staging[a] = 0) ∧ t.stageAddr = 0 ∧ t.operand = 0 ∧ t.pendingCommand = none
    ∧ t.lastCommand = none ∧ t.result = .none ∧ t.compacting = false
    ∧ t.arbiterMode = .matchFirst ∧ t.lastGrant = .matchUnit ∧ t.grant = .free ∧ t.timeBase = 0
    ∧ t.chanSel = 0 ∧ t.configAddr = 0 ∧ t.classSel = 0 ∧ t.classAddr = 0

/-- R191: while RESET is asserted host writes are ignored, reads give 0, the time base stands, and the part stays at
its device reset values whatever happens, until RESET is driven again. -/
def Obligations.ResetHoldsThePart : Prop :=
  (∀ s : State, s.inReset = true →
    (∀ c, isHostWrite c = true → exec c s = .next s)
      ∧ (∀ c ∈ [Instr.stageDataRead, .configDataRead, .classDataRead], exec c s = .next { s with dataOut := 0 })
      ∧ exec .timeBaseAdvance s = .next s ∧ ∀ a, s.readRegister a = 0)
    ∧ ∀ (c : Instr) (s t : State), HeldInReset s → exec c s = .next t → HeldInReset t

/-- R131, R114, R191: a write to any direct register is the write of that register: the same as the command of its
row where a row covers it, nothing where the register is read-only or the value requests nothing, and both requests,
in the order given, where a control register's value requests two. CONFIG_DATA is the byte that CONFIG_ADDR names. -/
def Obligations.RegisterWrites : Prop :=
  ∀ (s : State) (v : Byte), s.inReset = false → Settled s →
    (∀ a : Fin 32, a.val ∈ [0x00, 0x01, 0x04, 0x0D, 0x0E, 0x0F, 0x10, 0x11, 0x12, 0x13, 0x14, 0x18, 0x19, 0x1A, 0x1B,
        0x1D, 0x1E, 0x1F] → exec (.registerWrite a v) s = .next s)
      ∧ exec (.registerWrite 0x02 v) s = exec (.commandWrite v) s
      ∧ exec (.registerWrite 0x03 v) s = exec (.operandWrite v) s
      ∧ exec (.registerWrite 0x05 v) s = exec (.stageAddrWrite v) s
      ∧ exec (.registerWrite 0x06 v) s = exec (.stageDataWrite v) s
      ∧ exec (.registerWrite 0x07 v) s = exec (.configAddrWrite v) s
      ∧ exec (.registerWrite 0x09 v) s = exec (.classSelWrite v) s
      ∧ exec (.registerWrite 0x0A v) s = exec (.classAddrWrite v) s
      ∧ exec (.registerWrite 0x0B v) s = exec (.classDataWrite v) s
      ∧ exec (.registerWrite 0x15 v) s = exec (.outputsWrite v) s
      ∧ exec (.registerWrite 0x16 v) s = exec (.chanSelWrite v) s
      ∧ exec (.registerWrite 0x1C v) s = exec (.inject v) s
      ∧ (let a := s.configAddr.val
         (0x04 ≤ a → a ≤ 0x06 → exec (.registerWrite 0x08 v) s = exec (.lineSettingsWrite v) s)
          ∧ (0x07 ≤ a → a ≤ 0x09 → exec (.registerWrite 0x08 v) s = exec (.prefixWindowWrite v) s)
          ∧ (0x0A ≤ a → a ≤ 0x0D → exec (.registerWrite 0x08 v) s = exec (.holdLimitWrite v) s)
          ∧ (0x0E ≤ a → a ≤ 0x11 → exec (.registerWrite 0x08 v) s = exec (.tailWindowWrite v) s)
          ∧ (a = 0x12 → exec (.registerWrite 0x08 v) s = exec (.linesEnableWrite v) s)
          ∧ (a = 0x13 → exec (.registerWrite 0x08 v) s = exec (.linesPolarityWrite v) s)
          ∧ (a = 0x14 → exec (.registerWrite 0x08 v) s = exec (.debounceWrite v) s)
          ∧ (0x15 ≤ a → a ≤ 0x1B → exec (.registerWrite 0x08 v) s = exec (.eventLevelWrite v) s)
          ∧ (a = 0x1C → exec (.registerWrite 0x08 v) s = exec (.intCtrlWrite v) s)
          ∧ (a = 0x1D → exec (.registerWrite 0x08 v) s = exec (.wakeFloorWrite v) s)
          ∧ (0x1E ≤ a → a ≤ 0x21 → exec (.registerWrite 0x08 v) s = exec (.pulseWidthWrite v) s)
          ∧ (a = 0x22 → exec (.registerWrite 0x08 v) s = exec (.arbiterModeWrite v) s)
          ∧ (0x22 < a → exec (.registerWrite 0x08 v) s = .next { s with configAddr := s.configAddr + 1 })
          ∧ ∀ ch : Channel, a = ch.val →
              ((s.chan ch).mode ≠ .off → exec (.registerWrite 0x08 0) s = exec .modeToOff s)
              ∧ ((s.chan ch).mode = .off → v = 1 ∨ v = 2 →
                  exec (.registerWrite 0x08 v) s = exec (.modeOutOfOff v) s)
              ∧ ((s.chan ch).mode = .bypass ∧ v = 2 ∨ (s.chan ch).mode = .matching ∧ v = 1 →
                  exec (.registerWrite 0x08 v) s = exec (.modeBypassMatch v) s)
              ∧ ((s.chan ch).mode = .off ∧ v = 0 ∨ (s.chan ch).mode = .bypass ∧ v = 1
                    ∨ (s.chan ch).mode = .matching ∧ v = 2 ∨ 2 < v.toNat →
                  exec (.registerWrite 0x08 v) s = .next { s with configAddr := s.configAddr + 1 }))
      ∧ (v.getLsbD 0 = false → v.getLsbD 1 = false →
          exec (.registerWrite 0x17 v) s = .next s ∧ exec (.registerWrite 0x0C v) s = .next s)
      ∧ (v.getLsbD 0 = true → v.getLsbD 1 = false →
          exec (.registerWrite 0x17 v) s = exec .take s ∧ exec (.registerWrite 0x0C v) s = exec .next s)
      ∧ (v.getLsbD 0 = false → v.getLsbD 1 = true →
          exec (.registerWrite 0x17 v) s = exec .flush s
            ∧ exec (.registerWrite 0x0C v) s = exec (.clearLost (v.extractLsb' 4 4)) s)
      ∧ (v.getLsbD 0 = true → v.getLsbD 1 = true →
          (∀ t, exec .take s = .next t → exec (.registerWrite 0x17 v) s = exec .flush t)
            ∧ (∀ t, exec .next s = .next t →
                exec (.registerWrite 0x0C v) s = exec (.clearLost (v.extractLsb' 4 4)) t))

/-- R192–R200, R202: what each direct register reads: the status registers, OUTPUTS, the take latch, the presented
latch, the registers of the table controller and of the windows; a write-only register reads 0 (R191). -/
def Obligations.RegistersShowState : Prop :=
  ∀ s : State, s.inReset = false → Settled s → WithinCapacity s →
    (s.readRegister 0x00 = 0x4B ∧ s.readRegister 0x0C = 0 ∧ s.readRegister 0x17 = 0 ∧ s.readRegister 0x1C = 0
        ∧ s.readRegister 0x02 = (match s.lastCommand with | some v => v | none => 0)
        ∧ s.readRegister 0x03 = s.operand
        ∧ s.readRegister 0x04 = (match s.result with
            | .none => 0 | .ok => 1 | .busy => 2 | .badSlot => 3 | .badState => 4
            | .noSpace => 5 | .badRecord => 6 | .badCommand => 7 | .started => 8)
        ∧ (s.readRegister 0x05).toNat = s.stageAddr.val ∧ s.readRegister 0x06 = s.staging[s.stageAddr]
        ∧ (s.readRegister 0x07).toNat = s.configAddr.val ∧ ConfigShows s s.configAddr (s.readRegister 0x08)
        ∧ (s.readRegister 0x09).toNat = s.classSel.val ∧ s.readRegister 0x0A = s.classAddr
        ∧ ClassShows s (s.readRegister 0x0B) ∧ (s.readRegister 0x16).toNat = s.chanSel.val)
    ∧
    ((s.readRegister 0x01).toNat < 32 ∧ (s.readRegister 0x0D).toNat < 16
        ∧ (s.readRegister 0x01).getLsbD 0 = s.compacting
        ∧ (s.readRegister 0x01).getLsbD 1 = s.pendingCommand.isSome
        ∧ ((s.readRegister 0x01).getLsbD 2 = true ↔ s.eventQueue ≠ [])
        ∧ (s.readRegister 0x01).getLsbD 3 = s.intLine ∧ (s.readRegister 0x01).getLsbD 4 = s.wakeLine)
      ∧ (∀ l : EventLevel, (s.readRegister 0x0D).getLsbD l.val = s.lostMask[l])
      ∧ (∀ o : OutputNum, ((s.readRegister 0x15).getLsbD o.val = true ↔ (s.output o).level = .high)
          ∧ (s.readRegister 0x15).getLsbD (o.val + 4) = (s.output o).deadline.isSome)
      ∧ (let c := s.chan s.chanSel
         (s.readRegister 0x1E).toNat = c.queue.length
          ∧ (s.readRegister 0x1F).toNat = (heldEntries s s.chanSel).length
          ∧ (s.readRegister 0x1D).getLsbD 0 = c.lost ∧ (s.readRegister 0x1D).getLsbD 1 = c.injectRefused
          ∧ (s.readRegister 0x1D).getLsbD 2 = c.tail.isSome ∧ (s.readRegister 0x1D).getLsbD 3 = c.overrunPending
          ∧ (s.readRegister 0x1D).toNat / 16 = c.candidates.length
          ∧ (c.latch = none → ∀ a : Fin 32, a.val ∈ [0x18, 0x19, 0x1A, 0x1B] → s.readRegister a = 0)
          ∧ ∀ x ∈ c.latch, s.readRegister 0x18 = x.code
              ∧ (s.readRegister 0x19).getLsbD 0 = true ∧ (s.readRegister 0x19).getLsbD 5 = x.release
              ∧ (s.readRegister 0x19).toNat / 2 % 4 = (match x.kind with | .data => 0 | .brk => 1 | .line => 2 | .error => 3)
              ∧ (s.readRegister 0x19).toNat / 8 % 4 = (match x.extension with | .plain => 0 | .a => 1 | .b => 2)
              ∧ (s.readRegister 0x19).toNat / 64 = (match x.errorType with
                  | none => 0 | some .parity => 1 | some .framing => 2 | some .overrun => 3)
              ∧ (s.readRegister 0x1A).toNat + 256 * (s.readRegister 0x1B).toNat = x.stamp % 65536)
      ∧ (s.presented = none → ∀ a : Fin 32, 0x0E ≤ a.val → a.val ≤ 0x14 → s.readRegister a = 0)
      ∧ ∀ e ∈ s.presented, (s.readRegister 0x0E).getLsbD 0 = true ∧ s.readRegister 0x0F = e.seq
          ∧ (s.readRegister 0x0E).toNat / 2 % 8 = (match e.kind with
              | .matched => 0 | .lockout => 1 | .holdCancel => 2 | .spawnRefused => 3
              | .deliveryLost => 4 | .inputOverrun => 5 | .lineError => 6 | .compactDone => 7)
          ∧ (s.readRegister 0x0E).toNat / 16 % 4 = e.level.val
          ∧ (s.readRegister 0x0E).getLsbD 6 = e.channel.isSome ∧ (s.readRegister 0x0E).getLsbD 7 = e.pattern.isSome
          ∧ (s.readRegister 0x10).toNat = (match e.channel with | some c => c.val | none => 0)
          ∧ (s.readRegister 0x11).toNat = (match e.pattern with | some n => n.val | none => 0)
          ∧ s.readRegister 0x12 = (match e.tag with | some t => t | none => 0)
          ∧ (s.readRegister 0x13).toNat + 256 * (s.readRegister 0x14).toNat = e.stamp.toNat

/-! ## Receivers, line scanner and FIFOs (chapter 10) -/

/-- R176, R182: the stop-bit sample of a frame, the FIFO not full. That the line is then recorded at the level of that
sample is the model's choice (log entry 5). -/
def Obligations.FrameMakesItsEntry : Prop :=
  ∀ (s : State) (i : SerialChannel) (f : Frame),
    Settled s → (s.ser i).reception = .frame → (s.chan (serialChannel i)).fifo.length < 8 →
    let p := (s.ser i).parity
    let k : RawKind :=
      if f.data = 0 ∧ f.stopMark = false ∧ (p = .off ∨ f.parityMark = false) then .brk
      else if f.stopMark = false then .error f.data .framing
      else if (p = .even ∧ oddMarks f.data ≠ f.parityMark) ∨ (p = .odd ∧ oddMarks f.data = f.parityMark) then
        .error f.data .parity
      else .byte f.data
    exec (.frameReceived i f) s = .next
      ((s.modSer i fun x =>
          { x with rxMark := f.stopMark, reception := if f.stopMark then .idle else .markWait }).modChan
        (serialChannel i) fun c => { c with fifo := c.fifo ++ [⟨k, s.timeBase⟩] })

/-- R183: an arrival at a full FIFO, from a receiver and from the line scanner (a debounced change taken when due, or at
the raw change itself with debounce time 0), is lost; the first loss sets the flag and offers INPUT_OVERRUN. That the
receive line is recorded at the level of the stop sample is the model's choice (log entry 5). -/
def Obligations.ArrivalAtFullFifoIsLost : Prop :=
  (∀ (s : State) (i : SerialChannel) (f : Frame),
    Settled s → (s.ser i).reception = .frame → 8 ≤ (s.chan (serialChannel i)).fifo.length →
    let u := s.modSer i fun x =>
      { x with rxMark := f.stopMark, reception := if f.stopMark then .idle else .markWait }
    ((s.chan (serialChannel i)).overrunPending = true → exec (.frameReceived i f) s = .next u)
      ∧ ((s.chan (serialChannel i)).overrunPending = false → exec (.frameReceived i f) s = .next
          (State.offer (u.modChan (serialChannel i) fun c => { c with overrunPending := true })
            ⟨.inputOverrun, some (serialChannel i), none, none, s.timeBase⟩)))
    ∧ ∀ (s : State) (n : LineNum) (level : LineLevel) (c : Instr),
      Settled s → (s.chan lineChannel).mode ≠ .off → 8 ≤ (s.chan lineChannel).fifo.length →
      (c = .debouncedChange n ∧ (s.line n).raw = level
          ∧ (∃ p, (s.line n).change = some p ∧ p.level = level ∧ p.time + s.debounce.toNat ≤ s.timeBase)
        ∨ c = .rawChange n level ∧ (s.line n).raw ≠ level ∧ s.debounce = 0 ∧ (s.line n).change = none
          ∧ ∃ d, (s.line n).debounced = some d ∧ d ≠ level) →
      let u := s.modLine n fun l => { l with raw := level, debounced := some level, change := none }
      ((s.chan lineChannel).overrunPending = true → exec c s = .next u)
        ∧ ((s.chan lineChannel).overrunPending = false → exec c s = .next
            (State.offer (u.modChan lineChannel fun c => { c with overrunPending := true })
              ⟨.inputOverrun, some lineChannel, none, none, s.timeBase⟩))

/-- R176, R177: the changes of a receive line that begin a frame, end a false start and end MARK_WAIT. That a change
in another reception state is recorded as the line's level is the model's choice (log entry 5). -/
def Obligations.ReceiverFollowsItsLine : Prop :=
  ∀ (s : State) (i : SerialChannel), Settled s →
    ((s.ser i).reception = .idle → (s.ser i).rxMark = true →
        exec (.frameStart i) s = .next (s.modSer i fun x => { x with rxMark := false, reception := .frame }))
      ∧ ((s.ser i).reception ≠ .idle → (s.ser i).rxMark = true →
        exec (.frameStart i) s = .next (s.modSer i fun x => { x with rxMark := false }))
      ∧ ((s.ser i).reception = .frame →
        exec (.falseStart i) s = .next (s.modSer i fun x => { x with rxMark := true, reception := .idle }))
      ∧ ((s.ser i).reception = .markWait → (s.ser i).rxMark = false →
        exec (.markWaitEnd i) s = .next (s.modSer i fun x => { x with rxMark := true, reception := .idle }))
      ∧ ((s.ser i).reception ≠ .markWait → (s.ser i).rxMark = false →
        exec (.markWaitEnd i) s = .next (s.modSer i fun x => { x with rxMark := true }))

/-- R180: raw changes and due debounced changes of a discrete line; the line is active when its debounced level is the
one its polarity names (R179). That a change back to the debounced level cancels a pending change that is due and
not yet taken is the model's choice (log entry 21); ArrivalAtFullFifoIsLost has the arrivals at a full FIFO. -/
def Obligations.LineScannerDebounces : Prop :=
  ∀ (s : State) (n : LineNum) (level : LineLevel), Settled s →
    let active (p : LineLevel) : Bool := (p == .high) == (s.line n).activeHigh
    ((s.line n).raw ≠ level → (s.line n).debounced = none →
        exec (.rawChange n level) s = .next (s.modLine n fun l => { l with raw := level }))
      ∧ ((s.line n).raw ≠ level → (s.line n).debounced = some level →
        exec (.rawChange n level) s = .next (s.modLine n fun l => { l with raw := level, change := none }))
      ∧ (∀ d, (s.line n).raw ≠ level → (s.line n).debounced = some d → d ≠ level → (s.line n).change = none →
        (s.debounce ≠ 0 → exec (.rawChange n level) s = .next (s.modLine n fun l =>
            { l with raw := level, change := some ⟨level, s.timeBase⟩ }))
        ∧ (s.debounce = 0 → (s.chan lineChannel).mode = .off → exec (.rawChange n level) s = .next
            (s.modLine n fun l => { l with raw := level, debounced := some level, change := none }))
        ∧ (s.debounce = 0 → (s.chan lineChannel).mode ≠ .off → (s.chan lineChannel).fifo.length < 8 →
            exec (.rawChange n level) s = .next
              ((s.modLine n fun l => { l with raw := level, debounced := some level, change := none }).modChan
                lineChannel fun c => { c with fifo := c.fifo ++ [⟨.line n (active level), s.timeBase⟩] })))
      ∧ (∀ p, (s.line n).change = some p → p.time + s.debounce.toNat ≤ s.timeBase →
        ((s.chan lineChannel).mode ≠ .off → (s.chan lineChannel).fifo.length < 8 →
            exec (.debouncedChange n) s = .next
              ((s.modLine n fun l => { l with debounced := some p.level, change := none }).modChan
                lineChannel fun c => { c with fifo := c.fifo ++ [⟨.line n (active p.level), s.timeBase⟩] }))
        ∧ ((s.chan lineChannel).mode = .off → exec (.debouncedChange n) s = .next
            (s.modLine n fun l => { l with debounced := some p.level, change := none })))

/-- R184: an injection, on a serial channel and on CH3, accepted or refused. -/
def Obligations.InjectionArrives : Prop :=
  ∀ (s : State) (v : Byte), s.inReset = false → Settled s →
    (((s.chan s.chanSel).mode = .off ∨ 8 ≤ (s.chan s.chanSel).fifo.length) →
        exec (.inject v) s = .next (s.modChan s.chanSel fun c => { c with injectRefused := true }))
      ∧ ((s.chan s.chanSel).mode ≠ .off → (s.chan s.chanSel).fifo.length < 8 →
        (s.chanSel ≠ lineChannel → exec (.inject v) s = .next (s.modChan s.chanSel fun c =>
            { c with injectRefused := false, fifo := c.fifo ++ [⟨.byte v, s.timeBase⟩] }))
        ∧ (s.chanSel = lineChannel → ∀ num : LineNum, num.val = v.toNat % 8 →
            exec (.inject v) s = .next (s.modChan lineChannel fun c =>
              { c with injectRefused := false
                       fifo := c.fifo ++ [⟨.line num (v.getLsbD 7), s.timeBase⟩] })))

/-! ## Takes (chapter 1) -/

/-- R10–R12, R15: DROP, lead and RELEASE bytes after the stale-prefix test. -/
def Obligations.PrefixBytes : Prop :=
  ∀ (s : State) (i : SerialChannel) (v : Byte) (t : Time) (rest : List RawEntry),
    TakesFrom s (serialChannel i) ⟨.byte v, t⟩ rest → (s.chan (serialChannel i)).overrunPending = false →
    let a := (s.ser i).assemblerAt t
    let u (b : Assembler) : State :=
      (s.modChan (serialChannel i) fun c => { c with fifo := rest }).modSer i fun x => { x with assembler := b }
    ((s.ser i).classMap[v.toNat] = .drop → exec (.takeDropByte i) s = .next (u a))
      ∧ ((s.ser i).classMap[v.toNat] = .leadA → exec (.takeLeadByte i) s = .next (u ⟨.a, a.rel, some t⟩))
      ∧ ((s.ser i).classMap[v.toNat] = .leadB → exec (.takeLeadByte i) s = .next (u ⟨.b, a.rel, some t⟩))
      ∧ ((s.ser i).classMap[v.toNat] = .release → exec (.takeReleaseByte i) s = .next (u ⟨a.ext, true, some t⟩))

/-- R13, R18–R21, R4, R47: in MATCH the symbol that a take makes waits in the ready slot, and the match unit claims
the pattern memory, for which the arbiter decides at once if it is free (log entry 4). -/
def Obligations.SymbolWaitsInMatch : Prop :=
  ∀ (c : Instr) (s u : State) (ch : Channel) (x : Symbol),
    SymbolMade s c ch x u → (s.chan ch).mode = .matching →
    exec c s = .next (State.arbitrate (u.modChan ch fun k => { k with ready := some x }))

/-- R13, R18–R21, R108, R90, R95: in BYPASS the symbol that a take makes is delivered at once as a free symbol, or
lost to a full queue. That the LINE_ERROR of an ERROR entry is offered before the DELIVERY_LOST of its symbol is the
model's choice (log entry 19). -/
def Obligations.SymbolDeliveredInBypass : Prop :=
  ∀ (c : Instr) (s u : State) (ch : Channel) (x : Symbol),
    SymbolMade s c ch x u → (s.chan ch).mode = .bypass → (s.chan ch).tail = none → (s.chan ch).candidates = [] →
    ((s.chan ch).queue.length < 32 → exec c s = .next (u.modChan ch fun k => { k with queue := k.queue ++ [x] }))
      ∧ (32 ≤ (s.chan ch).queue.length → (s.chan ch).lost = true → exec c s = .next u)
      ∧ (32 ≤ (s.chan ch).queue.length → (s.chan ch).lost = false → exec c s = .next
          (State.offer (u.modChan ch fun k => { k with lost := true }) ⟨.deliveryLost, some ch, none, none, x.stamp⟩))

/-- R16: when the prefix expiry is taken, and what holds it back. That an expiry which cannot be taken leaves the state
as it was is the model's reading (log entry 3). -/
def Obligations.PrefixExpires : Prop :=
  ∀ (s : State) (i : SerialChannel), Settled s →
    let pending := (s.ser i).assembler.ext ≠ .plain ∨ (s.ser i).assembler.rel = true
    ((¬pending ∨ (s.ser i).prefixWindow = 0) → exec (.prefixExpiry i) s = .next s)
      ∧ ∀ p, pending → (s.ser i).assembler.prefixStamp = some p → (s.ser i).prefixWindow ≠ 0 →
        let d := p + (s.ser i).prefixWindow.toNat
        (d < s.timeBase → (∀ e ∈ (s.chan (serialChannel i)).fifo, d < e.stamp) →
            exec (.prefixExpiry i) s = .next (s.modSer i fun x => { x with assembler := ⟨.plain, false, none⟩ }))
          ∧ ((s.timeBase ≤ d ∨ ∃ e ∈ (s.chan (serialChannel i)).fifo, e.stamp ≤ d) →
            exec (.prefixExpiry i) s = .next s)

/-- R14, R15, R16: the take of a byte comes to the same whether the prefix expiry was taken before it or not. -/
def Obligations.PrefixExpiryAgreesWithStaleTest : Prop :=
  ∀ (s t : State) (i : SerialChannel) (v : Byte) (stamp : Time) (rest : List RawEntry) (c : Instr) (k : ByteClass),
    TakesFrom s (serialChannel i) ⟨.byte v, stamp⟩ rest → (s.chan (serialChannel i)).overrunPending = false →
    (c, k) ∈ [(Instr.takePlainByte i, ByteClass.plain), (.takeLeadByte i, .leadA), (.takeLeadByte i, .leadB),
      (.takeReleaseByte i, .release), (.takeDropByte i, .drop)] →
    (s.ser i).classMap[v.toNat] = k → exec (.prefixExpiry i) s = .next t → exec c t = exec c s

/-! ## The arbiter (section 9.3) -/

/-- R172: at the end of a grant the arbiter decides by the claims that wait and its mode; the event of a grant made is
taken, with the claimant recorded as granted last, and every other command and every read comes after it. That the event
is a command of its own, which the others find taken, is the model's form of the rule (log entry 4). -/
def Obligations.GrantEndDecides : Prop :=
  (∀ (s : State) (c : Claimant), s.grant = .held c →
    (¬MatchWaits s → ¬TableWaits s → exec .grantEnd s = .next { s with grant := .free })
      ∧ (MatchWaits s → ¬TableWaits s → exec .grantEnd s = .next { s with grant := .decided .matchUnit })
      ∧ (¬MatchWaits s → TableWaits s → exec .grantEnd s = .next { s with grant := .decided .table })
      ∧ (MatchWaits s → TableWaits s →
          (s.arbiterMode = .matchFirst → exec .grantEnd s = .next { s with grant := .decided .matchUnit })
          ∧ (s.arbiterMode = .tableFirst → exec .grantEnd s = .next { s with grant := .decided .table })
          ∧ (s.arbiterMode = .alternate → s.lastGrant = .matchUnit →
              exec .grantEnd s = .next { s with grant := .decided .table })
          ∧ (s.arbiterMode = .alternate → s.lastGrant = .table →
              exec .grantEnd s = .next { s with grant := .decided .matchUnit })))
  ∧ (∀ (s : State) (a : Claimant), s.grant = .decided a → GrantConsistent s →
      ∃ g t, isGrantEvent g = true ∧ exec g s = .next t ∧ t.grant = .held a ∧ t.lastGrant = a)
  ∧ ∀ (s t : State) (a : Claimant) (g : Instr), s.grant = .decided a → s.inReset = false →
      isGrantEvent g = true → exec g s = .next t → t.grant = .held a →
      (∀ c, isGrantEvent c = false → exec c s = exec c t) ∧ ∀ r, s.readRegister r = t.readRegister r

/-- R149, R150, R172: a write to COMMAND. That the decision of a claim shows as a stage of its own is the model's choice
(log entry 4). -/
def Obligations.CommandWriteClaims : Prop :=
  ∀ (s : State) (v : Byte), s.inReset = false → Settled s →
    (s.pendingCommand ≠ none → exec (.commandWrite v) s = .next s)
      ∧ (s.pendingCommand = none → s.grant ≠ .free →
          exec (.commandWrite v) s = .next { s with pendingCommand := some v })
      ∧ (s.pendingCommand = none → s.grant = .free → ¬MatchWaits s →
          exec (.commandWrite v) s = .next { s with pendingCommand := some v, grant := .decided .table })

/-! ## Elements and the match pass (chapters 2 and 3) -/

/-- R35–R37: when an element matches a symbol. -/
def Obligations.ElementMatching : Prop :=
  ∀ (e : Element) (x : Symbol),
    elementMatches e x = true ↔
      (x.kind = .data ∨ x.kind = .line) ∧ e.kind = .symbol
          ∧ (∀ i : Nat, i < 8 → 8 ≤ i + e.width.val → e.code.getLsbD i = x.code.getLsbD i)
          ∧ ((e.extension = .plain ∧ x.extension = .plain) ∨ (e.extension = .a ∧ x.extension = .a)
              ∨ (e.extension = .b ∧ x.extension = .b) ∨ e.extension = .either)
          ∧ ((e.release = .press ∧ x.release = false) ∨ (e.release = .release ∧ x.release = true)
              ∨ e.release = .either)
        ∨ x.kind ≠ .error ∧ e.kind = .any
        ∨ x.kind = .brk ∧ e.kind = .brk

/-- R48, R49, R25, R69: a pass serves the ready channel that R48 chooses and empties its ready slot. Of that channel it
changes no more than the match context, the delivery queue and the lost latch; of the others at most the candidates and
lockout records of a pattern it disarms; beyond the channels, the slot of a ONE_SHOT pattern, the event unit, and the
levels and pulses of the outputs. -/
def Obligations.PassServesOneChannel : Prop :=
  ∀ (s : State) (ch : Channel) (x : Symbol), PassServes s ch x →
    ∃ t, exec .matchPass s = .next t
      ∧ t = { s with
              chans := t.chans, slots := t.slots, outputs := t.outputs
              eventQueue := t.eventQueue, lostMask := t.lostMask, eventSeq := t.eventSeq
              intLine := t.intLine, wakeLine := t.wakeLine
              lastServed := ch, lastGrant := .matchUnit, grant := .held .matchUnit }
      ∧ (∃ cs ls tail queue lost, t.chan ch =
          { s.chan ch with ready := none, candidates := cs, lockouts := ls, tail := tail, queue := queue, lost := lost })
      ∧ (∀ j, j ≠ ch → ∃ cs ls, t.chan j = { s.chan j with candidates := cs, lockouts := ls }
          ∧ cs.Sublist (s.chan j).candidates ∧ ls.Sublist (s.chan j).lockouts)
      ∧ (∀ n, t.slot n = s.slot n ∨ ∃ r, s.slot n = .armed r ∧ r.pattern.oneShot = true ∧ t.slot n = .disarmed r)
      ∧ ∀ o, (t.output o).width = (s.output o).width

/-- R52, R58, R94, R101, R102: a symbol that no pattern takes up (an ERROR symbol, or one met with nothing armed) is
delivered free, or lost to a full queue; a tail record in force counts a release symbol down and ends at any other. -/
def Obligations.UnmatchedSymbolIsDelivered : Prop :=
  ∀ (s : State) (ch : Channel) (x : Symbol), PassServes s ch x →
    (x.kind = .error ∨ (∀ n, (s.slot n).armed? = none) ∧ (s.chan ch).candidates = []) →
    let u (tail : Option Tail) (queue : List Symbol) : State :=
      { (s.modChan ch fun c =>
          { c with ready := none, candidates := [], lockouts := c.lockouts.filter (fun l => x.stamp ≤ l.expiry),
                   tail := tail, queue := queue }) with
        lastServed := ch, lastGrant := .matchUnit, grant := .held .matchUnit }
    let q := (s.chan ch).queue
    ((∀ tl ∈ (s.chan ch).tail, (∃ d ∈ tl.expiry, d < x.stamp) ∨ x.release = false) →
        (q.length < 32 → exec .matchPass s = .next (u none (q ++ [x])))
        ∧ (32 ≤ q.length → (s.chan ch).lost = true → exec .matchPass s = .next (u none q))
        ∧ (32 ≤ q.length → (s.chan ch).lost = false → exec .matchPass s = .next
            (State.offer ((u none q).modChan ch fun c => { c with lost := true })
              ⟨.deliveryLost, some ch, none, none, x.stamp⟩)))
      ∧ (∀ tl ∈ (s.chan ch).tail, (∀ d ∈ tl.expiry, x.stamp ≤ d) → x.release = true →
        (1 < tl.count → exec .matchPass s = .next (u (some { tl with count := tl.count - 1 }) q))
        ∧ (tl.count ≤ 1 → exec .matchPass s = .next (u none q)))

/-- R51, R53–R60: every candidate that a pass leaves on its channel is one that stood before, not timed out, kept by a
symbol transparent to it or advanced by a symbol its element matches, or is spawned by the pass's symbol. -/
def Obligations.PassCandidatesFollowRules : Prop :=
  ∀ (s t : State) (ch : Channel) (x : Symbol), PassServes s ch x → exec .matchPass s = .next t →
    ∀ c ∈ (t.chan ch).candidates,
      (∃ b ∈ (s.chan ch).candidates, ∃ r, (s.slot c.pattern).record? = some r
          ∧ c.pattern = b.pattern ∧ c.birth = b.birth ∧ (∀ d ∈ b.deadline, x.stamp ≤ d)
          ∧ (r.pattern.pressOnly = true ∧ x.release = true ∧ c = b
            ∨ ¬(r.pattern.pressOnly = true ∧ x.release = true)
              ∧ elementMatches (s.elementAt (r.start + b.position)) x = true
              ∧ b.position + 1 ≠ r.pattern.length ∧ c.position = b.position + 1
              ∧ c.deadline = if r.pattern.gap = 0 then none else some (x.stamp + 10 * r.pattern.gap.toNat)))
      ∨ ∃ r, s.slot c.pattern = .armed r ∧ r.pattern.channels.getLsbD ch.val = true
          ∧ ¬(r.pattern.pressOnly = true ∧ x.release = true)
          ∧ (∀ l ∈ (s.chan ch).lockouts, l.pattern = c.pattern → l.expiry < x.stamp)
          ∧ elementMatches (s.elementAt r.start) x = true ∧ r.pattern.length ≠ 1
          ∧ c.position = 1 ∧ c.birth = x.arrival
          ∧ c.deadline = if r.pattern.gap = 0 then none else some (x.stamp + 10 * r.pattern.gap.toNat)

/-- R58–R60, R92, R94: the one ARMED pattern spawns on its first element, and a swallowing pattern holds the symbol
from its spawn on. A set that still holds 12 candidates, each of them advanced by the symbol, refuses the spawn. -/
def Obligations.LonePatternSpawns : Prop :=
  (∀ (s : State) (ch : Channel) (x : Symbol) (n : PatternNum) (r : Stored),
    PassServes s ch x → x.kind ≠ .error → OnlyArmed s n r → r.pattern.channels.getLsbD ch.val = true →
    ¬(r.pattern.pressOnly = true ∧ x.release = true) → elementMatches (s.elementAt r.start) x = true →
    2 ≤ r.pattern.length → (s.chan ch).candidates = [] → (s.chan ch).lockouts = [] → (s.chan ch).tail = none →
    (s.chan ch).queue.length < 32 → (∀ e ∈ (s.chan ch).queue, e.arrival < x.arrival) → 1 ≤ (s.chan ch).holdLimit →
    ∃ t, exec .matchPass s = .next t
      ∧ t = { (s.modChan ch fun c =>
                { c with
                  ready := none
                  candidates := [⟨n, 1, if r.pattern.gap = 0 then none else some (x.stamp + 10 * r.pattern.gap.toNat),
                    x.arrival⟩]
                  queue := c.queue ++ [x] }) with
              lastServed := ch, lastGrant := .matchUnit, grant := .held .matchUnit }
      ∧ heldEntries t ch = if r.pattern.swallow then [x] else [])
  ∧ ∀ (s : State) (ch : Channel) (x : Symbol) (n : PatternNum) (r : Stored),
    PassServes s ch x → x.kind ≠ .error → OnlyArmed s n r → r.pattern.channels.getLsbD ch.val = true →
    ¬(r.pattern.pressOnly = true ∧ x.release = true) → elementMatches (s.elementAt r.start) x = true →
    2 ≤ r.pattern.length → r.pattern.swallow = false → 12 ≤ (s.chan ch).candidates.length →
    (∀ b ∈ (s.chan ch).candidates, b.pattern = n ∧ (∀ d ∈ b.deadline, x.stamp ≤ d)
      ∧ elementMatches (s.elementAt (r.start + b.position)) x = true ∧ b.position + 1 ≠ r.pattern.length) →
    (s.chan ch).lockouts = [] → (s.chan ch).tail = none → (s.chan ch).queue.length < 32 →
    exec .matchPass s = .next
      (State.offer
        { (s.modChan ch fun c =>
            { c with
              ready := none
              candidates := c.candidates.map fun b => ⟨n, b.position + 1,
                if r.pattern.gap = 0 then none else some (x.stamp + 10 * r.pattern.gap.toNat), b.birth⟩
              queue := c.queue ++ [x] }) with
          lastServed := ch, lastGrant := .matchUnit, grant := .held .matchUnit }
        ⟨.spawnRefused, some ch, some n, none, x.stamp⟩)

/-- R53–R55, R93, R105: what a symbol does to the one candidate of the one ARMED pattern, that the symbol neither
completes, nor spawns, nor locks out. A swallowing candidate that stays holds the queue from its birth on, up to the
hold limit, beyond which it is cancelled; one that dies releases what it held. -/
def Obligations.LoneCandidateFollowsSymbol : Prop :=
  ∀ (s : State) (ch : Channel) (x : Symbol) (n : PatternNum) (r : Stored) (b : Candidate),
    PassServes s ch x → x.kind ≠ .error → OnlyArmed s n r →
    (s.chan ch).candidates = [b] → b.pattern = n → (∀ d ∈ b.deadline, x.stamp ≤ d) →
    elementMatches (s.elementAt r.start) x = false → (s.chan ch).lockouts = [] → (s.chan ch).tail = none →
    (s.chan ch).queue.length < 32 →
    let q := (s.chan ch).queue ++ [x]
    let u (cs : List Candidate) : State :=
      { (s.modChan ch fun c => { c with ready := none, candidates := cs, queue := q }) with
        lastServed := ch, lastGrant := .matchUnit, grant := .held .matchUnit }
    let held := q.filter fun e => b.birth ≤ e.arrival
    let staysAs (c : Candidate) : Prop :=
      (r.pattern.swallow = false → exec .matchPass s = .next (u [c]) ∧ heldEntries (u [c]) ch = [])
        ∧ (r.pattern.swallow = true → held.length ≤ (s.chan ch).holdLimit →
            exec .matchPass s = .next (u [c]) ∧ heldEntries (u [c]) ch = held)
        ∧ (r.pattern.swallow = true → (s.chan ch).holdLimit < held.length →
            exec .matchPass s = .next ((u []).offer ⟨.holdCancel, some ch, some n, none, x.stamp⟩))
    (r.pattern.pressOnly = true → x.release = true → staysAs b)
      ∧ (¬(r.pattern.pressOnly = true ∧ x.release = true) →
          (elementMatches (s.elementAt (r.start + b.position)) x = true → b.position + 1 ≠ r.pattern.length →
            staysAs ⟨n, b.position + 1,
              if r.pattern.gap = 0 then none else some (x.stamp + 10 * r.pattern.gap.toNat), b.birth⟩)
          ∧ (elementMatches (s.elementAt (r.start + b.position)) x = false →
              (r.pattern.lockout = false ∨ b.position < r.pattern.threshold.val) →
              exec .matchPass s = .next (u []) ∧ heldEntries (u []) ch = []))

/-- R55, R56, R80: a wrong symbol at or above the threshold locks the pattern out on the channel. -/
def Obligations.LoneCandidateLocksOut : Prop :=
  ∀ (s : State) (ch : Channel) (x : Symbol) (n : PatternNum) (r : Stored) (b : Candidate),
    PassServes s ch x → x.kind ≠ .error → OnlyArmed s n r →
    (s.chan ch).candidates = [b] → b.pattern = n → (∀ d ∈ b.deadline, x.stamp ≤ d) →
    ¬(r.pattern.pressOnly = true ∧ x.release = true) →
    elementMatches (s.elementAt (r.start + b.position)) x = false →
    r.pattern.lockout = true → r.pattern.threshold.val ≤ b.position →
    (s.chan ch).lockouts = [] → (s.chan ch).tail = none → (s.chan ch).queue.length < 32 →
    exec .matchPass s = .next
      (State.offer
        { (s.modChan ch fun c =>
            { c with
              ready := none, candidates := [], queue := c.queue ++ [x]
              lockouts := [⟨n, x.stamp + 100 * r.pattern.lockoutTime.toNat⟩] }) with
          lastServed := ch, lastGrant := .matchUnit, grant := .held .matchUnit }
        ⟨.lockout, some ch, some n, none, x.stamp⟩)

/-- R54, R59, R61–R65, R97, R99, R140–R142: completions. First that of the one candidate of the one ARMED pattern; then
whatever candidates and patterns of length 1 complete on one symbol, `done` being their pattern, birth and fields in
pattern-number order, while no candidate starts a lockout, no spawn is refused, and no hold is left to enforce. -/
def Obligations.LoneCandidateCompletes : Prop :=
  (∀ (s : State) (ch : Channel) (x : Symbol) (n : PatternNum) (r : Stored) (b : Candidate),
    PassServes s ch x → x.kind ≠ .error → OnlyArmed s n r →
    (s.chan ch).candidates = [b] → b.pattern = n → (∀ d ∈ b.deadline, x.stamp ≤ d) →
    ¬(r.pattern.pressOnly = true ∧ x.release = true) →
    elementMatches (s.elementAt (r.start + b.position)) x = true → b.position + 1 = r.pattern.length →
    elementMatches (s.elementAt r.start) x = false →
    (s.chan ch).lockouts = [] → (s.chan ch).tail = none → (s.chan ch).queue.length < 32 →
    s.eventQueue.length < 32 →
    ∃ t, exec .matchPass s = .next t
      ∧ t.eventQueue = s.eventQueue
          ++ [⟨s.eventSeq, .matched, r.pattern.level, some ch, some n, some r.pattern.tag, BitVec.ofNat 16 x.stamp⟩]
      ∧ t.eventSeq = s.eventSeq + 1 ∧ t.lostMask = s.lostMask
      ∧ (∀ m, t.slot m = if m = n ∧ r.pattern.oneShot = true then .disarmed r else s.slot m)
      ∧ (t.chan ch).candidates = [] ∧ (t.chan ch).ready = none ∧ (t.chan ch).latch = (s.chan ch).latch
      ∧ (∀ o, t.output o =
          if r.pattern.actionOutput = some o then
            match r.pattern.actionMode, (s.output o).level with
            | .set, _ => { s.output o with level := .high, deadline := none }
            | .clear, _ => { s.output o with level := .low, deadline := none }
            | .toggle, .low => { s.output o with level := .high, deadline := none }
            | .toggle, .high => { s.output o with level := .low, deadline := none }
            | .pulse, _ =>
              { s.output o with level := .high, deadline := some (s.timeBase + 10 * (s.output o).width.toNat) }
          else s.output o)
      ∧ (r.pattern.swallow = true →
          (t.chan ch).queue = (s.chan ch).queue.filter (fun e => e.arrival < b.birth)
          ∧ (t.chan ch).tail =
              if r.pattern.tail = 0 then none
              else some ⟨r.pattern.tail.val, if (s.chan ch).tailWindow = 0 then none
                else some (x.stamp + 10 * (s.chan ch).tailWindow.toNat)⟩)
      ∧ (r.pattern.swallow = false → (t.chan ch).queue = (s.chan ch).queue ++ [x] ∧ (t.chan ch).tail = none))
  ∧ ∀ (s : State) (ch : Channel) (x : Symbol) (done : List (PatternNum × ArrivalNum × Pattern))
      (spawned : List PatternNum),
    let transparent (p : Pattern) : Prop := p.pressOnly = true ∧ x.release = true
    let firstMatches (n : PatternNum) (r : Stored) : Prop :=
      s.slot n = .armed r ∧ r.pattern.channels.getLsbD ch.val = true ∧ ¬transparent r.pattern
        ∧ elementMatches (s.elementAt r.start) x = true
    PassServes s ch x → x.kind ≠ .error → (s.chan ch).lockouts = [] → (s.chan ch).tail = none →
    (s.chan ch).queue.length < 32 → s.eventQueue.length + done.length ≤ 32 →
    (∀ b ∈ (s.chan ch).candidates, ∃ r, s.slot b.pattern = .armed r ∧ 1 ≤ b.position ∧ (∀ d ∈ b.deadline, x.stamp ≤ d)
      ∧ (transparent r.pattern ∨ elementMatches (s.elementAt (r.start + b.position)) x = true
          ∨ r.pattern.lockout = false ∨ b.position < r.pattern.threshold.val)) →
    (s.chan ch).candidates.Pairwise (fun a b => ¬(a.pattern = b.pattern ∧ a.position = b.position)) →
    (∀ n r, firstMatches n r → r.pattern.length ≠ 1 → n ∈ spawned) →
    (s.chan ch).candidates.length + spawned.length ≤ 12 →
    done.Pairwise (fun a b => a.1 < b.1) →
    (∀ n birth p, (n, birth, p) ∈ done ↔ ∃ r, s.slot n = .armed r ∧ r.pattern = p
      ∧ ((∃ b ∈ (s.chan ch).candidates, b.pattern = n ∧ b.birth = birth ∧ ¬transparent p
            ∧ elementMatches (s.elementAt (r.start + b.position)) x = true ∧ b.position + 1 = p.length)
          ∨ p.length = 1 ∧ firstMatches n r ∧ birth = x.arrival)) →
    ((∃ d ∈ done, d.2.2.swallow = true ∨ d.2.2.clearOnComplete = true)
      ∨ ∀ n r, (s.slot n).record? = some r → r.pattern.swallow = false) →
    ∃ t, exec .matchPass s = .next t
      ∧ t.eventQueue = s.eventQueue ++ done.mapIdx (fun k d =>
          ⟨s.eventSeq + BitVec.ofNat 8 k, .matched, d.2.2.level, some ch, some d.1, some d.2.2.tag,
            BitVec.ofNat 16 x.stamp⟩)
      ∧ t.eventSeq = s.eventSeq + BitVec.ofNat 8 done.length ∧ t.lostMask = s.lostMask
      ∧ (∀ o, t.output o = done.foldl (fun y d =>
          if d.2.2.actionOutput = some o then
            match d.2.2.actionMode, y.level with
            | .set, _ => { y with level := .high, deadline := none }
            | .clear, _ => { y with level := .low, deadline := none }
            | .toggle, .low => { y with level := .high, deadline := none }
            | .toggle, .high => { y with level := .low, deadline := none }
            | .pulse, _ => { y with level := .high, deadline := some (s.timeBase + 10 * y.width.toNat) }
          else y) (s.output o))
      ∧ (∀ n r, s.slot n = .armed r → t.slot n =
          if (∃ d ∈ done, d.1 = n) ∧ r.pattern.oneShot = true then .disarmed r else .armed r)
      ∧ (∀ d ∈ done, d.2.2.oneShot = true → ∀ j, ∀ c ∈ (t.chan j).candidates, c.pattern ≠ d.1)
      ∧ ((∃ d ∈ done, d.2.2.clearOnComplete = true) → (t.chan ch).candidates = [])
      ∧ (∀ birth, (∃ d ∈ done, d.2.2.swallow = true ∧ d.2.1 = birth) →
          (∀ d ∈ done, d.2.2.swallow = true → birth ≤ d.2.1) →
          (t.chan ch).queue = (s.chan ch).queue.filter (fun e => e.arrival < birth))
      ∧ (∀ k : Fin 8, (∃ d ∈ done, d.2.2.swallow = true ∧ d.2.2.tail = k) →
          (∀ d ∈ done, d.2.2.swallow = true → d.2.2.tail ≤ k) →
          (t.chan ch).tail = if k = 0 then none
            else some ⟨k.val, if (s.chan ch).tailWindow = 0 then none
              else some (x.stamp + 10 * (s.chan ch).tailWindow.toNat)⟩)
      ∧ ((∀ d ∈ done, d.2.2.swallow = false) → (t.chan ch).queue = (s.chan ch).queue ++ [x] ∧ (t.chan ch).tail = none)

/-! ## Deadlines and the time base (chapter 4) -/

/-- R75, R76: a pass comes to the same whether an expiry of its channel's context was taken before its grant or not. -/
def Obligations.ExpiryOrderIsIrrelevant : Prop :=
  ∀ (s t : State) (ch : Channel) (x : Symbol) (c : Instr),
    let granted (u : State) : State := { u with grant := .decided .matchUnit }
    Settled s → PassServes (granted s) ch x →
    ((∃ n k, c = .gapDeadlineExpiry ch n k) ∨ (∃ n, c = .lockoutExpiry ch n) ∨ c = .tailExpiry ch) →
    exec c s = .next t → exec .matchPass (granted t) = exec .matchPass (granted s)

/-- R75, R78, R81, R85: a due deadline of a match context expires when nothing waits at or before it, and not before.
That an expiry which cannot be taken leaves the state as it was is the model's reading (log entry 3). -/
def Obligations.ContextDeadlinesExpire : Prop :=
  ∀ (s : State) (ch : Channel) (d : Time), Settled s →
    let free := d < s.timeBase ∧ ¬WaitsBy s ch d
    (∀ (pre post : List Candidate) (b : Candidate), (s.chan ch).candidates = pre ++ b :: post →
      (∀ a ∈ pre, ¬(a.pattern = b.pattern ∧ a.position = b.position)) → b.deadline = some d →
      (free → exec (.gapDeadlineExpiry ch b.pattern b.position) s = .next
          (s.modChan ch fun c => { c with candidates := pre ++ post }))
        ∧ (¬free → exec (.gapDeadlineExpiry ch b.pattern b.position) s = .next s))
      ∧ (∀ (pre post : List Lockout) (n : PatternNum), (s.chan ch).lockouts = pre ++ ⟨n, d⟩ :: post →
        (∀ a ∈ pre, a.pattern ≠ n) →
        (free → exec (.lockoutExpiry ch n) s = .next (s.modChan ch fun c => { c with lockouts := pre ++ post }))
          ∧ (¬free → exec (.lockoutExpiry ch n) s = .next s))
      ∧ (∀ k, (s.chan ch).tail = some ⟨k, some d⟩ →
        (free → exec (.tailExpiry ch) s = .next (s.modChan ch fun c => { c with tail := none }))
          ∧ (¬free → exec (.tailExpiry ch) s = .next s))

/-- R71, R143, R180: a pulse ends when the time base reaches its deadline, and a millisecond passes; what fell due at the
millisecond that ends is taken before it ends (the model's choice of the moment, log entry 6). That a pulse expiry before
its deadline leaves the state as it was is the model's reading (log entry 3). -/
def Obligations.PulsesEndAndTimeAdvances : Prop :=
  (∀ (s : State) (o : OutputNum) (d : Time), Settled s → (s.output o).deadline = some d →
    (d ≤ s.timeBase →
        exec (.pulseExpiry o) s = .next (s.modOutput o fun x => { x with level := .low, deadline := none }))
      ∧ (s.timeBase < d → exec (.pulseExpiry o) s = .next s))
  ∧ ∀ s : State, s.inReset = false → Settled s →
    ((∀ n, ∀ p ∈ (s.line n).change, s.timeBase < p.time + s.debounce.toNat) →
      (∀ o, ∀ d ∈ (s.output o).deadline, s.timeBase < d) →
        exec .timeBaseAdvance s = .next { s with timeBase := s.timeBase + 1 })
    ∧ ∃ t, exec .timeBaseAdvance s = .next t ∧ t.timeBase = s.timeBase + 1
      ∧ (∀ o, t.output o = if ∃ d ∈ (s.output o).deadline, d ≤ s.timeBase then
            { s.output o with level := .low, deadline := none } else s.output o)
      ∧ (∀ n, t.line n = match (s.line n).change with
          | some p => if p.time + s.debounce.toNat ≤ s.timeBase then
              { s.line n with debounced := some p.level, change := none } else s.line n
          | none => s.line n)

/-! ## Delivery and the take latch (chapter 5) -/

/-- R111: TAKE on the channel selected, by the head of its queue. -/
def Obligations.TakeMovesFreeHead : Prop :=
  ∀ s : State, s.inReset = false → Settled s →
    ((s.chan s.chanSel).queue = [] → exec .take s = .next (s.modChan s.chanSel fun c => { c with latch := none }))
      ∧ ∀ (x : Symbol) (rest : List Symbol), (s.chan s.chanSel).queue = x :: rest →
        ((∀ c ∈ (s.chan s.chanSel).candidates, s.swallowing c = true → x.arrival < c.birth) →
            exec .take s = .next (s.modChan s.chanSel fun c => { c with queue := rest, latch := some x, lost := false }))
        ∧ ((∃ c ∈ (s.chan s.chanSel).candidates, s.swallowing c = true ∧ c.birth ≤ x.arrival) →
            exec .take s = .next (s.modChan s.chanSel fun c => { c with latch := none }))

/-- R113: FLUSH empties the queue of the channel selected and clears its lost latch, and nothing else. -/
def Obligations.FlushEmptiesQueue : Prop :=
  ∀ s : State, s.inReset = false → Settled s →
    exec .flush s = .next (s.modChan s.chanSel fun c => { c with queue := [], lost := false })

/-- R104–R107: the hold limit, at a write of it and at an append in a pass. While the held entries exceed it, the oldest
swallowing candidate is cancelled and HOLD_CANCEL is offered, with the time base as stamp at a write and the symbol's
stamp in a pass (here of a release symbol that every pattern lets through). A value outside 1–32 leaves the limit. -/
def Obligations.HoldLimitIsEnforced : Prop :=
  (∀ (s : State) (ch : Channel) (v : Byte), s.inReset = false → Settled s → s.configAddr.val = 0x0A + ch.val →
    ((v.toNat = 0 ∨ 32 < v.toNat) →
        exec (.holdLimitWrite v) s = .next { s with configAddr := s.configAddr + 1 })
      ∧ (1 ≤ v.toNat → v.toNat ≤ 32 →
        ((heldEntries s ch).length ≤ v.toNat → exec (.holdLimitWrite v) s = .next
            { (s.modChan ch fun c => { c with holdLimit := v.toNat }) with configAddr := s.configAddr + 1 })
        ∧ ∃ gone cs, HoldEnforced s (s.chan ch).queue v.toNat (s.chan ch).candidates gone cs
            ∧ exec (.holdLimitWrite v) s = .next (State.offerHoldCancels
              { (s.modChan ch fun c => { c with holdLimit := v.toNat, candidates := cs }) with
                configAddr := s.configAddr + 1 } ch gone s.timeBase)))
  ∧ ∀ (s : State) (ch : Channel) (x : Symbol), PassServes s ch x → x.kind ≠ .error → x.release = true →
    (∀ n r, (s.slot n).record? = some r → r.pattern.pressOnly = true) →
    (∀ b ∈ (s.chan ch).candidates, (s.slot b.pattern).record? ≠ none ∧ ∀ d ∈ b.deadline, x.stamp ≤ d) →
    (s.chan ch).tail = none → (s.chan ch).queue.length < 32 →
    ∃ gone cs, HoldEnforced s ((s.chan ch).queue ++ [x]) (s.chan ch).holdLimit (s.chan ch).candidates gone cs
      ∧ exec .matchPass s = .next (State.offerHoldCancels
        { (s.modChan ch fun c =>
            { c with ready := none, candidates := cs, lockouts := c.lockouts.filter (fun l => x.stamp ≤ l.expiry),
                     queue := c.queue ++ [x] }) with
          lastServed := ch, lastGrant := .matchUnit, grant := .held .matchUnit } ch gone x.stamp)

/-! ## Events (chapter 6) -/

/-- R118, R120, R124–R126: an offer whose kind is OFF leaves nothing; a created event takes the next seq and joins the
queue, evicts the youngest event of a lower lowest level, or is dropped, and INT and WAKE follow. -/
def Obligations.EventsAreCreated : Prop :=
  ∀ (s : State) (l : EventLevel) (o : Offer),
    let e : EventRecord := ⟨s.eventSeq, o.kind, l, o.channel, o.pattern, o.tag, BitVec.ofNat 16 o.stamp⟩
    (∀ k : Fin 7, o.kind.code = k.val + 1 →
      (s.eventLevels[k] = none → s.offer o = s) ∧ (s.eventLevels[k] = some l → s.offer o = s.createEvent l o))
    ∧ (let t := s.createEvent l o
       t = { s with eventQueue := t.eventQueue, lostMask := t.lostMask, eventSeq := s.eventSeq + 1
                    intLine := t.intLine, wakeLine := t.wakeLine }
        ∧ LinesFollowQueue t)
    ∧ (s.eventQueue.length < 32 →
        (s.createEvent l o).eventQueue = s.eventQueue ++ [e] ∧ (s.createEvent l o).lostMask = s.lostMask)
    ∧ (32 ≤ s.eventQueue.length → (∀ q ∈ s.eventQueue, l ≤ q.level) →
        (s.createEvent l o).eventQueue = s.eventQueue
        ∧ ∀ k : EventLevel, (s.createEvent l o).lostMask[k] = (s.lostMask[k] || k == l))
    ∧ (∀ pre v post, 32 ≤ s.eventQueue.length → s.eventQueue = pre ++ v :: post → v.level < l →
        (∀ q ∈ pre, v.level ≤ q.level) → (∀ q ∈ post, v.level < q.level) →
        (s.createEvent l o).eventQueue = pre ++ post ++ [e]
        ∧ ∀ k : EventLevel, (s.createEvent l o).lostMask[k] = (s.lostMask[k] || k == v.level))

/-- R130, R123: NEXT presents the best event, the oldest of the highest level, and empties the latch when the queue is
empty; INT and WAKE take the value the queue then calls for. -/
def Obligations.NextPresentsBest : Prop :=
  ∀ s : State, s.inReset = false → Settled s →
    (s.eventQueue = [] → ∃ t, exec .next s = .next t ∧ t.presented = none ∧ t.eventQueue = []
        ∧ LinesFollowQueue t ∧ t = { s with presented := none, intLine := t.intLine, wakeLine := t.wakeLine })
    ∧ ∀ pre e post, s.eventQueue = pre ++ e :: post →
        (∀ q ∈ pre, q.level < e.level) → (∀ q ∈ post, q.level ≤ e.level) →
        ∃ t, exec .next s = .next t ∧ LinesFollowQueue t
          ∧ t = { s with presented := some e, eventQueue := pre ++ post
                         intLine := t.intLine, wakeLine := t.wakeLine }

/-- R127: CLEAR_LOST clears the flags its mask names, and nothing else. -/
def Obligations.ClearLostClearsNamed : Prop :=
  ∀ (s : State) (mask : BitVec 4), s.inReset = false → Settled s →
    ∃ m : Vector Bool 4, exec (.clearLost mask) s = .next { s with lostMask := m }
      ∧ ∀ l : EventLevel, m[l] = (s.lostMask[l] && !mask.getLsbD l.val)

/-! ## Action outputs (chapter 7) -/

/-- R144: a write to OUTPUTS makes each output its mask names steady at the level given, and leaves the others. -/
def Obligations.OutputsWriteDrivesNamed : Prop :=
  ∀ (s : State) (v : Byte), s.inReset = false → Settled s →
    exec (.outputsWrite v) s = .next
      { s with
        outputs := Vector.ofFn fun o =>
          if v.getLsbD (o.val + 4) then
            { s.output o with level := if v.getLsbD o.val then .high else .low, deadline := none }
          else s.output o }

/-! ## Table commands (chapter 8) -/

/-- R40, R41, R151, R153, R154: a DEFINE that is accepted puts the run at the lowest gap that holds it, the slot's own
old run counted free, and the slot is DISARMED; no other element and no other slot changes. -/
def Obligations.DefineStoresPattern : Prop :=
  ∀ (s : State) (n : PatternNum) (p : Pattern) (es : List Element) (a : Nat),
    CommandGranted s 1 → s.compacting = false → s.operand.toNat = n.val → (s.slot n).armed? = none →
    stagedPattern? s.staging = some (p, es) →
    let gapAt (b : Nat) : Prop :=
      b + p.length ≤ 512 ∧ ∀ m, m ≠ n → ∀ r, (s.slot m).record? = some r →
        ∀ k < p.length, ¬(r.start ≤ b + k ∧ b + k < r.start + r.pattern.length)
    gapAt a → (∀ b < a, ¬gapAt b) →
    ∃ pool : Vector Element 512,
      exec .define s = .next
        (State.recorded (State.setSlot { s with pool := pool } n (.disarmed ⟨p, a⟩)) 1 .ok)
      ∧ ∀ b : Fin 512, pool[b] =
          if h : a ≤ b.val ∧ b.val < a + es.length then es[b.val - a]'(by omega) else s.pool[b]

/-- R151, R153: the refusals of DEFINE, in the order of its checks, with nothing changed but the record of the
command. -/
def Obligations.DefineRefuses : Prop :=
  ∀ s : State, CommandGranted s 1 →
    (s.compacting = true → exec .define s = .next (s.recorded 1 .busy))
      ∧ (s.compacting = false → 64 ≤ s.operand.toNat → exec .define s = .next (s.recorded 1 .badSlot))
      ∧ ∀ n : PatternNum, s.compacting = false → s.operand.toNat = n.val →
        (∀ r, s.slot n = .armed r → exec .define s = .next (s.recorded 1 .badState))
        ∧ ((s.slot n).armed? = none → stagedPattern? s.staging = none →
            exec .define s = .next (s.recorded 1 .badRecord))
        ∧ ((s.slot n).armed? = none → ∀ p es, stagedPattern? s.staging = some (p, es) →
            (∀ b, b + p.length ≤ 512 → ∃ m, m ≠ n ∧ ∃ r, (s.slot m).record? = some r
              ∧ ∃ k < p.length, r.start ≤ b + k ∧ b + k < r.start + r.pattern.length) →
            exec .define s = .next (s.recorded 1 .noSpace))

/-- R23, R156, R157, R159: ARM, DISARM and DELETE by the slot's state. -/
def Obligations.SlotCommands : Prop :=
  ∀ (s : State) (n : PatternNum), s.operand.toNat = n.val →
    (CommandGranted s 2 →
      (s.slot n = .free → exec .arm s = .next (s.recorded 2 .badState))
      ∧ (∀ r, s.slot n = .disarmed r → exec .arm s = .next (State.recorded (s.setSlot n (.armed r)) 2 .ok))
      ∧ (∀ r, s.slot n = .armed r → exec .arm s = .next (s.recorded 2 .ok)))
    ∧ (CommandGranted s 3 →
      (s.slot n = .free → exec .disarm s = .next (s.recorded 3 .badState))
      ∧ (∀ r, s.slot n = .disarmed r → exec .disarm s = .next (s.recorded 3 .ok))
      ∧ (∀ r, s.slot n = .armed r → exec .disarm s = .next
          (State.recorded
            { s.setSlot n (.disarmed r) with
              chans := Vector.ofFn fun ch =>
                { s.chan ch with
                  candidates := (s.chan ch).candidates.filter (fun c => c.pattern ≠ n)
                  lockouts := (s.chan ch).lockouts.filter (fun l => l.pattern ≠ n) } } 3 .ok)))
    ∧ (CommandGranted s 4 → s.compacting = false →
      (s.slot n = .free → exec .delete s = .next (s.recorded 4 .ok))
      ∧ (∀ r, s.slot n = .disarmed r → exec .delete s = .next (State.recorded (s.setSlot n .free) 4 .ok))
      ∧ (∀ r, s.slot n = .armed r → exec .delete s = .next (s.recorded 4 .badState)))

/-- R151, R160, R161, R165, R202: READ_BACK, CLEAR_LOCKOUT, COMPACT and a code that names no command; BAD_SLOT and
BUSY where a check of R151 fails. -/
def Obligations.OtherTableCommands : Prop :=
  ∀ s : State,
    (∀ (n : PatternNum), s.operand.toNat = n.val →
      (CommandGranted s 5 → s.slot n = .free → exec .readBack s = .next (s.recorded 5 .badState))
      ∧ (∀ r, CommandGranted s 5 → (s.slot n).record? = some r → exec .readBack s = .next
          (State.recorded
            { s with
              staging := encodeRecord r.pattern r.start
                ((List.range r.pattern.length).map fun k => s.elementAt (r.start + k)) } 5 .ok))
      ∧ (CommandGranted s 6 → exec .clearLockout s = .next
          (State.recorded
            { s with
              chans := Vector.ofFn fun ch =>
                { s.chan ch with lockouts := (s.chan ch).lockouts.filter (fun l => l.pattern ≠ n) } } 6 .ok)))
    ∧ (64 ≤ s.operand.toNat →
      (CommandGranted s 2 → exec .arm s = .next (s.recorded 2 .badSlot))
      ∧ (CommandGranted s 3 → exec .disarm s = .next (s.recorded 3 .badSlot))
      ∧ (CommandGranted s 4 → s.compacting = false → exec .delete s = .next (s.recorded 4 .badSlot))
      ∧ (CommandGranted s 5 → exec .readBack s = .next (s.recorded 5 .badSlot))
      ∧ (CommandGranted s 6 → exec .clearLockout s = .next (s.recorded 6 .badSlot)))
    ∧ (CommandGranted s 4 → s.compacting = true → exec .delete s = .next (s.recorded 4 .busy))
    ∧ (CommandGranted s 7 → s.compacting = true → exec .compact s = .next (s.recorded 7 .busy))
    ∧ (CommandGranted s 7 → s.compacting = false →
        exec .compact s = .next (State.recorded { s with compacting := true } 7 .started))
    ∧ ∀ v : Byte, v = 0 ∨ 8 < v.toNat → CommandGranted s v → exec .badCommand s = .next (s.recorded v .badCommand)

/-- R162: RUNTIME_RESET puts the moving state at its starting values and keeps the programming. -/
def Obligations.RuntimeResetKeepsProgramming : Prop :=
  ∀ s : State, CommandGranted s 8 →
    exec .runtimeReset s = .next
      (State.recorded
        { s with
          chans := Vector.ofFn fun ch =>
            ⟨(s.chan ch).mode, [], false, false, none, 0, [], [], none, [], none, false, (s.chan ch).holdLimit,
              (s.chan ch).tailWindow⟩
          serial := Vector.ofFn fun i => { s.ser i with assembler := ⟨.plain, false, none⟩ }
          outputs := Vector.ofFn fun o => { s.output o with level := .low, deadline := none }
          eventQueue := [], presented := none, lostMask := Vector.replicate 4 false, eventSeq := 0
          intLine := false, wakeLine := false } 8 .ok)

/-- R38, R160, R201, section 11.4.5: the staging record. DEFINE reads a pattern and elements from a record exactly when
the record lays them out and they are valid; READ_BACK lays them out, with unused bits 0, the start in bytes 8 and 9 and
zero beyond the last triple; so DEFINE reads what READ_BACK wrote as the same pattern. -/
def Obligations.ReadBackRoundTrip : Prop :=
  (∀ (p : Pattern) (e : Element), (p.valid = true ↔ HeaderValid p) ∧ (e.validIn p = true ↔ ElementValid p e))
  ∧ (∀ (r : Vector Byte 58) (p : Pattern) (es : List Element), stagedPattern? r = some (p, es) ↔
      LaysOut r p es ∧ HeaderValid p ∧ ∀ e ∈ es, ElementValid p e)
  ∧ ∀ (p : Pattern) (es : List Element) (start : Nat),
    HeaderValid p → es.length = p.length → (∀ e ∈ es, ElementValid p e) → start < 512 →
    let r := encodeRecord p start es
    stagedPattern? r = some (p, es) ∧ LaysOut r p es ∧ r[8].toNat + 256 * r[9].toNat = start
      ∧ r[0].toNat < 64 ∧ r[1].toNat < 32 ∧ r[5].toNat < 128 ∧ r[7].toNat < 4
      ∧ (∀ k : Nat, k < p.length →
          (∃ b, r[11 + 3 * k]? = some b ∧ b.toNat < 64) ∧ ∃ b, r[12 + 3 * k]? = some b ∧ b.toNat < 16)
      ∧ ∀ a : Fin 58, 10 + 3 * p.length ≤ a.val → r[a] = 0

/-- R147, R148, R149, R150: OPERAND, STAGE_ADDR and STAGE_DATA, with no command pending and with one pending. -/
def Obligations.StagingWindow : Prop :=
  ∀ (s : State) (v : Byte), s.inReset = false → Settled s →
    (s.pendingCommand = none →
      exec (.operandWrite v) s = .next { s with operand := v }
      ∧ (∀ a : Fin 58, a.val = v.toNat → exec (.stageAddrWrite v) s = .next { s with stageAddr := a })
      ∧ (58 ≤ v.toNat → exec (.stageAddrWrite v) s = .next s)
      ∧ (∃ t, exec (.stageDataWrite v) s = .next t
          ∧ t = { s with staging := t.staging, stageAddr := if s.stageAddr = 57 then 0 else s.stageAddr + 1 }
          ∧ ∀ a : Fin 58, t.staging[a] = if a = s.stageAddr ∧ a ≠ 8 ∧ a ≠ 9 then v else s.staging[a])
      ∧ exec .stageDataRead s = .next
          { s with dataOut := s.staging[s.stageAddr], stageAddr := if s.stageAddr = 57 then 0 else s.stageAddr + 1 })
    ∧ (s.pendingCommand ≠ none →
      (∀ c ∈ [Instr.operandWrite v, .stageAddrWrite v, .stageDataWrite v, .commandWrite v], exec c s = .next s)
      ∧ exec .stageDataRead s = .next { s with dataOut := s.staging[s.stageAddr] })

/-! ## Compaction (section 9.1) -/

/-- R164, R167, R168: a granted step moves the out-of-place run with the lowest start to the first free address and
changes no other slot; the compaction ends with it, and COMPACT_DONE is offered, exactly when it leaves no run out of
place. Nothing else changes. -/
def Obligations.CompactionMovesLowestRun : Prop :=
  ∀ (s : State) (n : PatternNum) (r : Stored) (f : Nat),
    StepGranted s → PoolConsistent s → (s.slot n).record? = some r →
    f < r.start → s.allocated f = false → (∀ b < f, s.allocated b = true) →
    (∀ m q, m ≠ n → (s.slot m).record? = some q → f < q.start → r.start < q.start) →
    ∃ t, exec .compactionMove s = .next t
      ∧ (∀ m, m ≠ n → t.slot m = s.slot m)
      ∧ (∀ q, s.slot n = .armed q → t.slot n = .armed { q with start := f })
      ∧ (∀ q, s.slot n = .disarmed q → t.slot n = .disarmed { q with start := f })
      ∧ (∀ k < r.pattern.length, t.elementAt (f + k) = s.elementAt (r.start + k))
      ∧ (∀ b, ¬(f ≤ b ∧ b < f + r.pattern.length) → t.elementAt b = s.elementAt b)
      ∧ (let u : State := { s with slots := t.slots, pool := t.pool, grant := .held .table, lastGrant := .table }
         let outOfPlace := ∃ m q, (t.slot m).record? = some q ∧ ∃ b < q.start, t.allocated b = false
         (outOfPlace → t = u)
          ∧ (¬outOfPlace → t = State.offer { u with compacting := false } ⟨.compactDone, none, none, none, s.timeBase⟩))

/-- R167, R171: a move changes no pattern: every slot keeps its state, its record but for the start, and its
elements. -/
def Obligations.CompactionKeepsPatterns : Prop :=
  ∀ s t : State, PoolConsistent s → exec .compactionMove s = .next t →
    ∀ n, ((t.slot n).armed?.isSome = (s.slot n).armed?.isSome)
      ∧ ((s.slot n).record? = none → (t.slot n).record? = none)
      ∧ ∀ r, (s.slot n).record? = some r → ∃ q, (t.slot n).record? = some q ∧ q.pattern = r.pattern
          ∧ ∀ k < r.pattern.length, t.elementAt (q.start + k) = s.elementAt (r.start + k)

/-- R168: the step that finds no run out of place ends the compaction and offers COMPACT_DONE, stamped with the time
base. -/
def Obligations.CompactionEnds : Prop :=
  ∀ s : State, StepGranted s → PoolConsistent s →
    (∀ n r, (s.slot n).record? = some r → ∀ b < r.start, s.allocated b = true) →
    exec .compactionEnd s = .next
      (State.offer { s with grant := .held .table, lastGrant := .table, compacting := false }
        ⟨.compactDone, none, none, none, s.timeBase⟩)

/-! ## The configuration space and the address registers (chapters 10 and 11) -/

/-- R193–R195: CHAN_SEL, CONFIG_ADDR, CLASS_SEL and CLASS_ADDR, and the data reads, which drive the byte named (the
byte stands in the model's own field, log entry 9) and advance the address. -/
def Obligations.AddressRegisters : Prop :=
  ∀ (s : State) (v : Byte), s.inReset = false → Settled s →
    (∀ a : Channel, a.val = v.toNat → exec (.chanSelWrite v) s = .next { s with chanSel := a })
      ∧ (∀ a : Fin 64, a.val = v.toNat → exec (.configAddrWrite v) s = .next { s with configAddr := a })
      ∧ (∀ a : Fin 4, a.val = v.toNat → exec (.classSelWrite v) s = .next { s with classSel := a })
      ∧ (4 ≤ v.toNat → exec (.chanSelWrite v) s = .next s ∧ exec (.classSelWrite v) s = .next s)
      ∧ (64 ≤ v.toNat → exec (.configAddrWrite v) s = .next s)
      ∧ exec (.classAddrWrite v) s = .next { s with classAddr := v }
      ∧ (∃ b, ConfigShows s s.configAddr b ∧ exec .configDataRead s = .next
          { s with dataOut := b, configAddr := if s.configAddr = 63 then 0 else s.configAddr + 1 })
      ∧ ∃ b, ClassShows s b ∧ exec .classDataRead s = .next { s with dataOut := b, classAddr := s.classAddr + 1 }

/-- R7, R195: a write to CLASS_DATA classifies one byte value of the map selected; a value that is no class, or no map
selected, changes no class; the address advances in each case. -/
def Obligations.ClassDataWrites : Prop :=
  ∀ (s : State) (v : Byte), s.inReset = false → Settled s →
    (∀ (i : SerialChannel) (k : ByteClass), s.classSel.val = i.val →
      (v, k) ∈ [((0 : Byte), ByteClass.plain), (1, .leadA), (2, .leadB), (3, .release), (4, .drop)] →
      exec (.classDataWrite v) s = .next
        { (s.modSer i fun x => { x with classMap := x.classMap.set s.classAddr.toNat k s.classAddr.isLt }) with
          classAddr := s.classAddr + 1 })
    ∧ ((s.classSel = 3 ∨ 5 ≤ v.toNat) →
        exec (.classDataWrite v) s = .next { s with classAddr := s.classAddr + 1 })

/-- R187, R4, R42, R47, R172: a channel to OFF. The grant of the memory stays: a claim is withdrawn, a grant never. -/
def Obligations.ModeToOff : Prop :=
  ∀ (s : State) (ch : Channel), s.inReset = false → Settled s → s.configAddr.val = ch.val → (s.chan ch).mode ≠ .off →
    exec .modeToOff s = .next
      { (s.modChan ch fun c =>
          { c with mode := .off, fifo := [], overrunPending := false, ready := none, candidates := [],
                   lockouts := [], tail := none }) with
        configAddr := s.configAddr + 1
        serial := Vector.ofFn fun i => if serialChannel i = ch then
          { s.ser i with reception := .stopped, assembler := ⟨.plain, false, none⟩ } else s.ser i }

/-- R188: a channel out of OFF; its receiver begins in IDLE at mark and in MARK_WAIT at space. -/
def Obligations.ModeOutOfOff : Prop :=
  ∀ (s : State) (ch : Channel) (v : Byte) (m : Mode), s.inReset = false → Settled s → s.configAddr.val = ch.val →
    (s.chan ch).mode = .off → (v, m) ∈ [((1 : Byte), Mode.bypass), (2, .matching)] →
    exec (.modeOutOfOff v) s = .next
      { (s.modChan ch fun c => { c with mode := m }) with
        configAddr := s.configAddr + 1
        serial := Vector.ofFn fun i => if serialChannel i = ch then
          { s.ser i with reception := if (s.ser i).rxMark then .idle else .markWait } else s.ser i }

/-- R189, R109, R95: BYPASS to MATCH; MATCH to BYPASS with an empty context, the waiting symbol delivered free behind
the released entries or lost to a full queue. The grant of the memory stays: a claim is withdrawn, a grant never
(R47, R172). -/
def Obligations.ModeBypassMatch : Prop :=
  ∀ (s : State) (ch : Channel), s.inReset = false → Settled s → s.configAddr.val = ch.val →
    ((s.chan ch).mode = .bypass → exec (.modeBypassMatch 2) s = .next
        { (s.modChan ch fun c => { c with mode := .matching }) with configAddr := s.configAddr + 1 })
    ∧ ((s.chan ch).mode = .matching →
        let u (lost : Bool) (queue : List Symbol) : State :=
          { (s.modChan ch fun c =>
              { c with mode := .bypass, ready := none, candidates := [], lockouts := [], tail := none,
                       lost := lost, queue := queue }) with
            configAddr := s.configAddr + 1 }
        let c := s.chan ch
        (c.ready = none → exec (.modeBypassMatch 1) s = .next (u c.lost c.queue))
        ∧ ∀ x, c.ready = some x →
            (c.queue.length < 32 → exec (.modeBypassMatch 1) s = .next (u c.lost (c.queue ++ [x])))
            ∧ (32 ≤ c.queue.length → c.lost = true → exec (.modeBypassMatch 1) s = .next (u true c.queue))
            ∧ (32 ≤ c.queue.length → c.lost = false → exec (.modeBypassMatch 1) s = .next
                (State.offer (u true c.queue) ⟨.deliveryLost, some ch, none, none, x.stamp⟩)))

/-- R175, R178: LINE_SETTINGS. A change discards a frame in progress; parity code 3, and the settings already in
force, change nothing. -/
def Obligations.LineSettingsWrites : Prop :=
  ∀ (s : State) (i : SerialChannel) (v : Byte), s.inReset = false → Settled s → s.configAddr.val = 0x04 + i.val →
    (v.toNat / 8 % 4 = 3 → exec (.lineSettingsWrite v) s = .next { s with configAddr := s.configAddr + 1 })
    ∧ ∀ (b : Fin 8) (p : Parity), b.val = v.toNat % 8 →
        (v.toNat / 8 % 4, p) ∈ [(0, Parity.off), (1, .even), (2, .odd)] →
        ((s.ser i).baud = b ∧ (s.ser i).parity = p →
            exec (.lineSettingsWrite v) s = .next { s with configAddr := s.configAddr + 1 })
        ∧ (¬((s.ser i).baud = b ∧ (s.ser i).parity = p) →
            exec (.lineSettingsWrite v) s = .next
              { (s.modSer i fun x =>
                  { x with
                    baud := b, parity := p
                    reception := if x.reception = .frame then (if x.rxMark then .idle else .markWait)
                      else x.reception }) with
                configAddr := s.configAddr + 1 })

/-- R17, R84, R119, R134, R135, R139, R173, R194: the plain bytes of the configuration space, each with the values it
accepts and the values that leave it; INT and WAKE follow their settings at the write. -/
def Obligations.PlainConfigWrites : Prop :=
  ∀ (s : State) (v : Byte), s.inReset = false → Settled s →
    let up (t : State) : State := { t with configAddr := s.configAddr + 1 }
    (∀ i : SerialChannel, s.configAddr.val = 0x07 + i.val → exec (.prefixWindowWrite v) s = .next
        (up (s.modSer i fun x => { x with prefixWindow := v })))
    ∧ (∀ ch : Channel, s.configAddr.val = 0x0E + ch.val → exec (.tailWindowWrite v) s = .next
        (up (s.modChan ch fun c => { c with tailWindow := v })))
    ∧ (∀ k : Fin 7, s.configAddr.val = 0x15 + k.val →
        (∀ l : EventLevel, l.val = v.toNat → exec (.eventLevelWrite v) s = .next
          (up { s with eventLevels := s.eventLevels.set k.val (some l) k.isLt }))
        ∧ (v = 4 → exec (.eventLevelWrite v) s = .next
          (up { s with eventLevels := s.eventLevels.set k.val none k.isLt }))
        ∧ (4 < v.toNat → exec (.eventLevelWrite v) s = .next (up s)))
    ∧ (s.configAddr.val = 0x1C → ∀ l : EventLevel, l.val = v.toNat % 4 →
        ∃ t, exec (.intCtrlWrite v) s = .next t ∧ LinesFollowQueue t
          ∧ t = up { s with intEnable := v.getLsbD 7, intFloor := l, intLine := t.intLine, wakeLine := t.wakeLine })
    ∧ (s.configAddr.val = 0x1D →
        (∀ l : Fin 5, l.val = v.toNat → ∃ t, exec (.wakeFloorWrite v) s = .next t ∧ LinesFollowQueue t
          ∧ t = up { s with wakeFloor := l, intLine := t.intLine, wakeLine := t.wakeLine })
        ∧ (4 < v.toNat → exec (.wakeFloorWrite v) s = .next (up s)))
    ∧ (∀ o : OutputNum, s.configAddr.val = 0x1E + o.val →
        (v ≠ 0 → exec (.pulseWidthWrite v) s = .next (up (s.modOutput o fun x => { x with width := v })))
        ∧ (v = 0 → exec (.pulseWidthWrite v) s = .next (up s)))
    ∧ (s.configAddr.val = 0x22 →
        (∀ m, (v, m) ∈ [((0 : Byte), ArbiterMode.matchFirst), (1, .tableFirst), (2, .alternate)] →
          exec (.arbiterModeWrite v) s = .next (up { s with arbiterMode := m }))
        ∧ (2 < v.toNat → exec (.arbiterModeWrite v) s = .next (up s)))

/-- R181, R183: LINES_ENABLE, LINES_POLARITY and DEBOUNCE. An enable takes the raw level and reports nothing; a polarity
write reports the enabled lines it changes, and a debounce write takes and reports the changes then due, each in line
order and reporting nothing while CH3 is in OFF; the entries that find the FIFO full are lost. That a change due at the
millisecond of the write is taken by it is the model's reading (log entry 14). That a change which fell due in the
millisecond of the write and is not yet taken is dropped by a disabling and postponed by a raised debounce time is the
model's choice (log entry 22). -/
def Obligations.LineConfigWrites : Prop :=
  ∀ (s : State) (v : Byte), s.inReset = false → Settled s →
    let room := 8 - (s.chan lineChannel).fifo.length
    let reported (u : State) (entries : List RawEntry) : State :=
      let w := u.modChan lineChannel fun c =>
        { c with fifo := c.fifo ++ entries.take room
                 overrunPending := c.overrunPending || decide (room < entries.length) }
      if room < entries.length ∧ (s.chan lineChannel).overrunPending = false then
        w.offer ⟨.inputOverrun, some lineChannel, none, none, s.timeBase⟩
      else w
    (s.configAddr.val = 0x12 → exec (.linesEnableWrite v) s = .next
      { s with
        configAddr := s.configAddr + 1
        lines := Vector.ofFn fun n =>
          if v.getLsbD n.val = (s.line n).enabled then s.line n
          else if v.getLsbD n.val then { s.line n with enabled := true, debounced := some (s.line n).raw, change := none }
          else { s.line n with enabled := false, debounced := none, change := none } })
    ∧ (s.configAddr.val = 0x13 →
      let flipped := (List.finRange 8).filter fun n =>
        (s.line n).enabled && (s.line n).debounced.isSome && ((s.line n).activeHigh != v.getLsbD n.val)
      let entries := if (s.chan lineChannel).mode = .off then [] else flipped.map fun n =>
        (⟨.line n (((s.line n).debounced == some .high) == v.getLsbD n.val), s.timeBase⟩ : RawEntry)
      exec (.linesPolarityWrite v) s = .next (reported
        { s with
          configAddr := s.configAddr + 1
          lines := Vector.ofFn fun n => { s.line n with activeHigh := v.getLsbD n.val } } entries))
    ∧ (s.configAddr.val = 0x14 →
      let due (n : LineNum) : Option LineLevel :=
        (s.line n).change.bind fun p => if p.time + v.toNat ≤ s.timeBase then some p.level else none
      let entries := if (s.chan lineChannel).mode = .off then [] else (List.finRange 8).filterMap fun n =>
        (due n).map fun d => (⟨.line n ((d == .high) == (s.line n).activeHigh), s.timeBase⟩ : RawEntry)
      exec (.debounceWrite v) s = .next (reported
        { s with
          debounce := v
          configAddr := s.configAddr + 1
          lines := Vector.ofFn fun n => match due n with
            | some d => { s.line n with debounced := some d, change := none }
            | none => s.line n } entries))

/-! ## What every command keeps -/

/-- R133: INT and WAKE follow their conditions from command to command. -/
def Obligations.StepKeepsLinesFollowQueue : Prop :=
  ∀ s t : State, LinesFollowQueue s → step s = .next t → LinesFollowQueue t

/-- R182, R88, R44, R123, R26, R38, R39: no queue exceeds its capacity, and the runs of the pool stay valid, in the
pool and disjoint. -/
def Obligations.StepKeepsCapacityAndPool : Prop :=
  (∀ s t : State, WithinCapacity s → step s = .next t → WithinCapacity t)
    ∧ ∀ s t : State, PoolConsistent s → step s = .next t → PoolConsistent t

/-- R175, R8, R179, R138: receivers, assemblers, discrete lines and outputs stay consistent. -/
def Obligations.StepKeepsLineSide : Prop :=
  (∀ s t : State, ReceiversConsistent s → step s = .next t → ReceiversConsistent t)
    ∧ (∀ s t : State, LinesConsistent s → step s = .next t → LinesConsistent t)
    ∧ ∀ s t : State, OutputsConsistent s → step s = .next t → OutputsConsistent t

/-- R3, R47, R88, R172: grants follow claims (log entry 4 for the stage between decision and event), and arrivals and
stamps stay in order. -/
def Obligations.StepKeepsOrder : Prop :=
  (∀ s t : State, GrantConsistent s → step s = .next t → GrantConsistent t)
    ∧ ∀ s t : State, ArrivalsOrdered s → step s = .next t → ArrivalsOrdered t

/-- R43, R44, R46, R83, R104: the match contexts stay consistent, and no channel holds more than its hold limit. -/
def Obligations.StepKeepsContexts : Prop :=
  ∀ s t : State,
    GrantConsistent s → PoolConsistent s → ArrivalsOrdered s → WithinCapacity s → ContextsConsistent s →
    HeldWithinLimit s → step s = .next t → ContextsConsistent t ∧ HeldWithinLimit t

/-- The state after device reset has every property that a step keeps. -/
def Obligations.ResetMeetsInvariants : Prop :=
  LinesFollowQueue State.reset ∧ WithinCapacity State.reset ∧ PoolConsistent State.reset
    ∧ ReceiversConsistent State.reset ∧ LinesConsistent State.reset ∧ OutputsConsistent State.reset
    ∧ GrantConsistent State.reset ∧ ArrivalsOrdered State.reset ∧ ContextsConsistent State.reset
    ∧ HeldWithinLimit State.reset ∧ HeldInReset State.reset
end

