-- ==== Sys2Proof/Laws/State.lean ====
section
/-! SUPPORT. The small lemmas of the state: for every update of a numbered piece or of a few fields, one lemma per
field it leaves, and the lemmas of reading a piece after writing it. -/

namespace Sys2Proof.Machine

variable (s : State)

/-! ## setChan -/

@[simp] theorem chan_setChan_same (k : Channel) (x : Chan) : (s.setChan k x).chan k = x := by
  simp [State.chan, State.setChan]

theorem chan_setChan_other {k j : Channel} (x : Chan) (h : j ≠ k) : (s.setChan k x).chan j = s.chan j := by
  simp [State.chan, State.setChan, Fin.val_inj, Ne.symm h]

theorem chan_setChan (k j : Channel) (x : Chan) : (s.setChan k x).chan j = if j = k then x else s.chan j := by
  by_cases h : j = k
  · subst h; simp
  · simp [h, chan_setChan_other]

@[simp] theorem chan_modChan_same (k : Channel) (f : Chan → Chan) : (s.modChan k f).chan k = f (s.chan k) := by
  simp [State.modChan]

theorem chan_modChan_other {k j : Channel} (f : Chan → Chan) (h : j ≠ k) : (s.modChan k f).chan j = s.chan j := by
  simp [State.modChan, chan_setChan_other, h]

theorem chan_modChan (k j : Channel) (f : Chan → Chan) : (s.modChan k f).chan j = if j = k then f (s.chan k) else s.chan j := by
  simp [State.modChan, chan_setChan]

@[simp] theorem setChan_inReset (k : Channel) (x : Chan) : (s.setChan k x).inReset = s.inReset := rfl
@[simp] theorem modChan_inReset (k : Channel) (f : Chan → Chan) : (s.modChan k f).inReset = s.inReset := rfl
@[simp] theorem setChan_dataOut (k : Channel) (x : Chan) : (s.setChan k x).dataOut = s.dataOut := rfl
@[simp] theorem modChan_dataOut (k : Channel) (f : Chan → Chan) : (s.modChan k f).dataOut = s.dataOut := rfl
@[simp] theorem setChan_serial (k : Channel) (x : Chan) : (s.setChan k x).serial = s.serial := rfl
@[simp] theorem modChan_serial (k : Channel) (f : Chan → Chan) : (s.modChan k f).serial = s.serial := rfl
@[simp] theorem setChan_lines (k : Channel) (x : Chan) : (s.setChan k x).lines = s.lines := rfl
@[simp] theorem modChan_lines (k : Channel) (f : Chan → Chan) : (s.modChan k f).lines = s.lines := rfl
@[simp] theorem setChan_debounce (k : Channel) (x : Chan) : (s.setChan k x).debounce = s.debounce := rfl
@[simp] theorem modChan_debounce (k : Channel) (f : Chan → Chan) : (s.modChan k f).debounce = s.debounce := rfl
@[simp] theorem setChan_slots (k : Channel) (x : Chan) : (s.setChan k x).slots = s.slots := rfl
@[simp] theorem modChan_slots (k : Channel) (f : Chan → Chan) : (s.modChan k f).slots = s.slots := rfl
@[simp] theorem setChan_pool (k : Channel) (x : Chan) : (s.setChan k x).pool = s.pool := rfl
@[simp] theorem modChan_pool (k : Channel) (f : Chan → Chan) : (s.modChan k f).pool = s.pool := rfl
@[simp] theorem setChan_lastServed (k : Channel) (x : Chan) : (s.setChan k x).lastServed = s.lastServed := rfl
@[simp] theorem modChan_lastServed (k : Channel) (f : Chan → Chan) : (s.modChan k f).lastServed = s.lastServed := rfl
@[simp] theorem setChan_eventQueue (k : Channel) (x : Chan) : (s.setChan k x).eventQueue = s.eventQueue := rfl
@[simp] theorem modChan_eventQueue (k : Channel) (f : Chan → Chan) : (s.modChan k f).eventQueue = s.eventQueue := rfl
@[simp] theorem setChan_presented (k : Channel) (x : Chan) : (s.setChan k x).presented = s.presented := rfl
@[simp] theorem modChan_presented (k : Channel) (f : Chan → Chan) : (s.modChan k f).presented = s.presented := rfl
@[simp] theorem setChan_lostMask (k : Channel) (x : Chan) : (s.setChan k x).lostMask = s.lostMask := rfl
@[simp] theorem modChan_lostMask (k : Channel) (f : Chan → Chan) : (s.modChan k f).lostMask = s.lostMask := rfl
@[simp] theorem setChan_eventSeq (k : Channel) (x : Chan) : (s.setChan k x).eventSeq = s.eventSeq := rfl
@[simp] theorem modChan_eventSeq (k : Channel) (f : Chan → Chan) : (s.modChan k f).eventSeq = s.eventSeq := rfl
@[simp] theorem setChan_eventLevels (k : Channel) (x : Chan) : (s.setChan k x).eventLevels = s.eventLevels := rfl
@[simp] theorem modChan_eventLevels (k : Channel) (f : Chan → Chan) : (s.modChan k f).eventLevels = s.eventLevels := rfl
@[simp] theorem setChan_intEnable (k : Channel) (x : Chan) : (s.setChan k x).intEnable = s.intEnable := rfl
@[simp] theorem modChan_intEnable (k : Channel) (f : Chan → Chan) : (s.modChan k f).intEnable = s.intEnable := rfl
@[simp] theorem setChan_intFloor (k : Channel) (x : Chan) : (s.setChan k x).intFloor = s.intFloor := rfl
@[simp] theorem modChan_intFloor (k : Channel) (f : Chan → Chan) : (s.modChan k f).intFloor = s.intFloor := rfl
@[simp] theorem setChan_wakeFloor (k : Channel) (x : Chan) : (s.setChan k x).wakeFloor = s.wakeFloor := rfl
@[simp] theorem modChan_wakeFloor (k : Channel) (f : Chan → Chan) : (s.modChan k f).wakeFloor = s.wakeFloor := rfl
@[simp] theorem setChan_intLine (k : Channel) (x : Chan) : (s.setChan k x).intLine = s.intLine := rfl
@[simp] theorem modChan_intLine (k : Channel) (f : Chan → Chan) : (s.modChan k f).intLine = s.intLine := rfl
@[simp] theorem setChan_wakeLine (k : Channel) (x : Chan) : (s.setChan k x).wakeLine = s.wakeLine := rfl
@[simp] theorem modChan_wakeLine (k : Channel) (f : Chan → Chan) : (s.modChan k f).wakeLine = s.wakeLine := rfl
@[simp] theorem setChan_outputs (k : Channel) (x : Chan) : (s.setChan k x).outputs = s.outputs := rfl
@[simp] theorem modChan_outputs (k : Channel) (f : Chan → Chan) : (s.modChan k f).outputs = s.outputs := rfl
@[simp] theorem setChan_staging (k : Channel) (x : Chan) : (s.setChan k x).staging = s.staging := rfl
@[simp] theorem modChan_staging (k : Channel) (f : Chan → Chan) : (s.modChan k f).staging = s.staging := rfl
@[simp] theorem setChan_stageAddr (k : Channel) (x : Chan) : (s.setChan k x).stageAddr = s.stageAddr := rfl
@[simp] theorem modChan_stageAddr (k : Channel) (f : Chan → Chan) : (s.modChan k f).stageAddr = s.stageAddr := rfl
@[simp] theorem setChan_operand (k : Channel) (x : Chan) : (s.setChan k x).operand = s.operand := rfl
@[simp] theorem modChan_operand (k : Channel) (f : Chan → Chan) : (s.modChan k f).operand = s.operand := rfl
@[simp] theorem setChan_pendingCommand (k : Channel) (x : Chan) : (s.setChan k x).pendingCommand = s.pendingCommand := rfl
@[simp] theorem modChan_pendingCommand (k : Channel) (f : Chan → Chan) : (s.modChan k f).pendingCommand = s.pendingCommand := rfl
@[simp] theorem setChan_lastCommand (k : Channel) (x : Chan) : (s.setChan k x).lastCommand = s.lastCommand := rfl
@[simp] theorem modChan_lastCommand (k : Channel) (f : Chan → Chan) : (s.modChan k f).lastCommand = s.lastCommand := rfl
@[simp] theorem setChan_result (k : Channel) (x : Chan) : (s.setChan k x).result = s.result := rfl
@[simp] theorem modChan_result (k : Channel) (f : Chan → Chan) : (s.modChan k f).result = s.result := rfl
@[simp] theorem setChan_compacting (k : Channel) (x : Chan) : (s.setChan k x).compacting = s.compacting := rfl
@[simp] theorem modChan_compacting (k : Channel) (f : Chan → Chan) : (s.modChan k f).compacting = s.compacting := rfl
@[simp] theorem setChan_arbiterMode (k : Channel) (x : Chan) : (s.setChan k x).arbiterMode = s.arbiterMode := rfl
@[simp] theorem modChan_arbiterMode (k : Channel) (f : Chan → Chan) : (s.modChan k f).arbiterMode = s.arbiterMode := rfl
@[simp] theorem setChan_lastGrant (k : Channel) (x : Chan) : (s.setChan k x).lastGrant = s.lastGrant := rfl
@[simp] theorem modChan_lastGrant (k : Channel) (f : Chan → Chan) : (s.modChan k f).lastGrant = s.lastGrant := rfl
@[simp] theorem setChan_grant (k : Channel) (x : Chan) : (s.setChan k x).grant = s.grant := rfl
@[simp] theorem modChan_grant (k : Channel) (f : Chan → Chan) : (s.modChan k f).grant = s.grant := rfl
@[simp] theorem setChan_timeBase (k : Channel) (x : Chan) : (s.setChan k x).timeBase = s.timeBase := rfl
@[simp] theorem modChan_timeBase (k : Channel) (f : Chan → Chan) : (s.modChan k f).timeBase = s.timeBase := rfl
@[simp] theorem setChan_chanSel (k : Channel) (x : Chan) : (s.setChan k x).chanSel = s.chanSel := rfl
@[simp] theorem modChan_chanSel (k : Channel) (f : Chan → Chan) : (s.modChan k f).chanSel = s.chanSel := rfl
@[simp] theorem setChan_configAddr (k : Channel) (x : Chan) : (s.setChan k x).configAddr = s.configAddr := rfl
@[simp] theorem modChan_configAddr (k : Channel) (f : Chan → Chan) : (s.modChan k f).configAddr = s.configAddr := rfl
@[simp] theorem setChan_classSel (k : Channel) (x : Chan) : (s.setChan k x).classSel = s.classSel := rfl
@[simp] theorem modChan_classSel (k : Channel) (f : Chan → Chan) : (s.modChan k f).classSel = s.classSel := rfl
@[simp] theorem setChan_classAddr (k : Channel) (x : Chan) : (s.setChan k x).classAddr = s.classAddr := rfl
@[simp] theorem modChan_classAddr (k : Channel) (f : Chan → Chan) : (s.modChan k f).classAddr = s.classAddr := rfl
@[simp] theorem setChan_pending (k : Channel) (x : Chan) : (s.setChan k x).pending = s.pending := rfl
@[simp] theorem modChan_pending (k : Channel) (f : Chan → Chan) : (s.modChan k f).pending = s.pending := rfl

@[simp] theorem ser_setChan (k : Channel) (x : Chan) (j : SerialChannel) : (s.setChan k x).ser j = s.ser j := rfl
@[simp] theorem ser_modChan (k : Channel) (f : Chan → Chan) (j : SerialChannel) : (s.modChan k f).ser j = s.ser j := rfl
@[simp] theorem line_setChan (k : Channel) (x : Chan) (j : LineNum) : (s.setChan k x).line j = s.line j := rfl
@[simp] theorem line_modChan (k : Channel) (f : Chan → Chan) (j : LineNum) : (s.modChan k f).line j = s.line j := rfl
@[simp] theorem slot_setChan (k : Channel) (x : Chan) (j : PatternNum) : (s.setChan k x).slot j = s.slot j := rfl
@[simp] theorem slot_modChan (k : Channel) (f : Chan → Chan) (j : PatternNum) : (s.modChan k f).slot j = s.slot j := rfl
@[simp] theorem output_setChan (k : Channel) (x : Chan) (j : OutputNum) : (s.setChan k x).output j = s.output j := rfl
@[simp] theorem output_modChan (k : Channel) (f : Chan → Chan) (j : OutputNum) : (s.modChan k f).output j = s.output j := rfl

/-! ## setSer -/

@[simp] theorem ser_setSer_same (k : SerialChannel) (x : Serial) : (s.setSer k x).ser k = x := by
  simp [State.ser, State.setSer]

theorem ser_setSer_other {k j : SerialChannel} (x : Serial) (h : j ≠ k) : (s.setSer k x).ser j = s.ser j := by
  simp [State.ser, State.setSer, Fin.val_inj, Ne.symm h]

theorem ser_setSer (k j : SerialChannel) (x : Serial) : (s.setSer k x).ser j = if j = k then x else s.ser j := by
  by_cases h : j = k
  · subst h; simp
  · simp [h, ser_setSer_other]

@[simp] theorem ser_modSer_same (k : SerialChannel) (f : Serial → Serial) : (s.modSer k f).ser k = f (s.ser k) := by
  simp [State.modSer]

theorem ser_modSer_other {k j : SerialChannel} (f : Serial → Serial) (h : j ≠ k) : (s.modSer k f).ser j = s.ser j := by
  simp [State.modSer, ser_setSer_other, h]

theorem ser_modSer (k j : SerialChannel) (f : Serial → Serial) : (s.modSer k f).ser j = if j = k then f (s.ser k) else s.ser j := by
  simp [State.modSer, ser_setSer]

@[simp] theorem setSer_inReset (k : SerialChannel) (x : Serial) : (s.setSer k x).inReset = s.inReset := rfl
@[simp] theorem modSer_inReset (k : SerialChannel) (f : Serial → Serial) : (s.modSer k f).inReset = s.inReset := rfl
@[simp] theorem setSer_dataOut (k : SerialChannel) (x : Serial) : (s.setSer k x).dataOut = s.dataOut := rfl
@[simp] theorem modSer_dataOut (k : SerialChannel) (f : Serial → Serial) : (s.modSer k f).dataOut = s.dataOut := rfl
@[simp] theorem setSer_lines (k : SerialChannel) (x : Serial) : (s.setSer k x).lines = s.lines := rfl
@[simp] theorem modSer_lines (k : SerialChannel) (f : Serial → Serial) : (s.modSer k f).lines = s.lines := rfl
@[simp] theorem setSer_debounce (k : SerialChannel) (x : Serial) : (s.setSer k x).debounce = s.debounce := rfl
@[simp] theorem modSer_debounce (k : SerialChannel) (f : Serial → Serial) : (s.modSer k f).debounce = s.debounce := rfl
@[simp] theorem setSer_chans (k : SerialChannel) (x : Serial) : (s.setSer k x).chans = s.chans := rfl
@[simp] theorem modSer_chans (k : SerialChannel) (f : Serial → Serial) : (s.modSer k f).chans = s.chans := rfl
@[simp] theorem setSer_slots (k : SerialChannel) (x : Serial) : (s.setSer k x).slots = s.slots := rfl
@[simp] theorem modSer_slots (k : SerialChannel) (f : Serial → Serial) : (s.modSer k f).slots = s.slots := rfl
@[simp] theorem setSer_pool (k : SerialChannel) (x : Serial) : (s.setSer k x).pool = s.pool := rfl
@[simp] theorem modSer_pool (k : SerialChannel) (f : Serial → Serial) : (s.modSer k f).pool = s.pool := rfl
@[simp] theorem setSer_lastServed (k : SerialChannel) (x : Serial) : (s.setSer k x).lastServed = s.lastServed := rfl
@[simp] theorem modSer_lastServed (k : SerialChannel) (f : Serial → Serial) : (s.modSer k f).lastServed = s.lastServed := rfl
@[simp] theorem setSer_eventQueue (k : SerialChannel) (x : Serial) : (s.setSer k x).eventQueue = s.eventQueue := rfl
@[simp] theorem modSer_eventQueue (k : SerialChannel) (f : Serial → Serial) : (s.modSer k f).eventQueue = s.eventQueue := rfl
@[simp] theorem setSer_presented (k : SerialChannel) (x : Serial) : (s.setSer k x).presented = s.presented := rfl
@[simp] theorem modSer_presented (k : SerialChannel) (f : Serial → Serial) : (s.modSer k f).presented = s.presented := rfl
@[simp] theorem setSer_lostMask (k : SerialChannel) (x : Serial) : (s.setSer k x).lostMask = s.lostMask := rfl
@[simp] theorem modSer_lostMask (k : SerialChannel) (f : Serial → Serial) : (s.modSer k f).lostMask = s.lostMask := rfl
@[simp] theorem setSer_eventSeq (k : SerialChannel) (x : Serial) : (s.setSer k x).eventSeq = s.eventSeq := rfl
@[simp] theorem modSer_eventSeq (k : SerialChannel) (f : Serial → Serial) : (s.modSer k f).eventSeq = s.eventSeq := rfl
@[simp] theorem setSer_eventLevels (k : SerialChannel) (x : Serial) : (s.setSer k x).eventLevels = s.eventLevels := rfl
@[simp] theorem modSer_eventLevels (k : SerialChannel) (f : Serial → Serial) : (s.modSer k f).eventLevels = s.eventLevels := rfl
@[simp] theorem setSer_intEnable (k : SerialChannel) (x : Serial) : (s.setSer k x).intEnable = s.intEnable := rfl
@[simp] theorem modSer_intEnable (k : SerialChannel) (f : Serial → Serial) : (s.modSer k f).intEnable = s.intEnable := rfl
@[simp] theorem setSer_intFloor (k : SerialChannel) (x : Serial) : (s.setSer k x).intFloor = s.intFloor := rfl
@[simp] theorem modSer_intFloor (k : SerialChannel) (f : Serial → Serial) : (s.modSer k f).intFloor = s.intFloor := rfl
@[simp] theorem setSer_wakeFloor (k : SerialChannel) (x : Serial) : (s.setSer k x).wakeFloor = s.wakeFloor := rfl
@[simp] theorem modSer_wakeFloor (k : SerialChannel) (f : Serial → Serial) : (s.modSer k f).wakeFloor = s.wakeFloor := rfl
@[simp] theorem setSer_intLine (k : SerialChannel) (x : Serial) : (s.setSer k x).intLine = s.intLine := rfl
@[simp] theorem modSer_intLine (k : SerialChannel) (f : Serial → Serial) : (s.modSer k f).intLine = s.intLine := rfl
@[simp] theorem setSer_wakeLine (k : SerialChannel) (x : Serial) : (s.setSer k x).wakeLine = s.wakeLine := rfl
@[simp] theorem modSer_wakeLine (k : SerialChannel) (f : Serial → Serial) : (s.modSer k f).wakeLine = s.wakeLine := rfl
@[simp] theorem setSer_outputs (k : SerialChannel) (x : Serial) : (s.setSer k x).outputs = s.outputs := rfl
@[simp] theorem modSer_outputs (k : SerialChannel) (f : Serial → Serial) : (s.modSer k f).outputs = s.outputs := rfl
@[simp] theorem setSer_staging (k : SerialChannel) (x : Serial) : (s.setSer k x).staging = s.staging := rfl
@[simp] theorem modSer_staging (k : SerialChannel) (f : Serial → Serial) : (s.modSer k f).staging = s.staging := rfl
@[simp] theorem setSer_stageAddr (k : SerialChannel) (x : Serial) : (s.setSer k x).stageAddr = s.stageAddr := rfl
@[simp] theorem modSer_stageAddr (k : SerialChannel) (f : Serial → Serial) : (s.modSer k f).stageAddr = s.stageAddr := rfl
@[simp] theorem setSer_operand (k : SerialChannel) (x : Serial) : (s.setSer k x).operand = s.operand := rfl
@[simp] theorem modSer_operand (k : SerialChannel) (f : Serial → Serial) : (s.modSer k f).operand = s.operand := rfl
@[simp] theorem setSer_pendingCommand (k : SerialChannel) (x : Serial) : (s.setSer k x).pendingCommand = s.pendingCommand := rfl
@[simp] theorem modSer_pendingCommand (k : SerialChannel) (f : Serial → Serial) : (s.modSer k f).pendingCommand = s.pendingCommand := rfl
@[simp] theorem setSer_lastCommand (k : SerialChannel) (x : Serial) : (s.setSer k x).lastCommand = s.lastCommand := rfl
@[simp] theorem modSer_lastCommand (k : SerialChannel) (f : Serial → Serial) : (s.modSer k f).lastCommand = s.lastCommand := rfl
@[simp] theorem setSer_result (k : SerialChannel) (x : Serial) : (s.setSer k x).result = s.result := rfl
@[simp] theorem modSer_result (k : SerialChannel) (f : Serial → Serial) : (s.modSer k f).result = s.result := rfl
@[simp] theorem setSer_compacting (k : SerialChannel) (x : Serial) : (s.setSer k x).compacting = s.compacting := rfl
@[simp] theorem modSer_compacting (k : SerialChannel) (f : Serial → Serial) : (s.modSer k f).compacting = s.compacting := rfl
@[simp] theorem setSer_arbiterMode (k : SerialChannel) (x : Serial) : (s.setSer k x).arbiterMode = s.arbiterMode := rfl
@[simp] theorem modSer_arbiterMode (k : SerialChannel) (f : Serial → Serial) : (s.modSer k f).arbiterMode = s.arbiterMode := rfl
@[simp] theorem setSer_lastGrant (k : SerialChannel) (x : Serial) : (s.setSer k x).lastGrant = s.lastGrant := rfl
@[simp] theorem modSer_lastGrant (k : SerialChannel) (f : Serial → Serial) : (s.modSer k f).lastGrant = s.lastGrant := rfl
@[simp] theorem setSer_grant (k : SerialChannel) (x : Serial) : (s.setSer k x).grant = s.grant := rfl
@[simp] theorem modSer_grant (k : SerialChannel) (f : Serial → Serial) : (s.modSer k f).grant = s.grant := rfl
@[simp] theorem setSer_timeBase (k : SerialChannel) (x : Serial) : (s.setSer k x).timeBase = s.timeBase := rfl
@[simp] theorem modSer_timeBase (k : SerialChannel) (f : Serial → Serial) : (s.modSer k f).timeBase = s.timeBase := rfl
@[simp] theorem setSer_chanSel (k : SerialChannel) (x : Serial) : (s.setSer k x).chanSel = s.chanSel := rfl
@[simp] theorem modSer_chanSel (k : SerialChannel) (f : Serial → Serial) : (s.modSer k f).chanSel = s.chanSel := rfl
@[simp] theorem setSer_configAddr (k : SerialChannel) (x : Serial) : (s.setSer k x).configAddr = s.configAddr := rfl
@[simp] theorem modSer_configAddr (k : SerialChannel) (f : Serial → Serial) : (s.modSer k f).configAddr = s.configAddr := rfl
@[simp] theorem setSer_classSel (k : SerialChannel) (x : Serial) : (s.setSer k x).classSel = s.classSel := rfl
@[simp] theorem modSer_classSel (k : SerialChannel) (f : Serial → Serial) : (s.modSer k f).classSel = s.classSel := rfl
@[simp] theorem setSer_classAddr (k : SerialChannel) (x : Serial) : (s.setSer k x).classAddr = s.classAddr := rfl
@[simp] theorem modSer_classAddr (k : SerialChannel) (f : Serial → Serial) : (s.modSer k f).classAddr = s.classAddr := rfl
@[simp] theorem setSer_pending (k : SerialChannel) (x : Serial) : (s.setSer k x).pending = s.pending := rfl
@[simp] theorem modSer_pending (k : SerialChannel) (f : Serial → Serial) : (s.modSer k f).pending = s.pending := rfl

@[simp] theorem chan_setSer (k : SerialChannel) (x : Serial) (j : Channel) : (s.setSer k x).chan j = s.chan j := rfl
@[simp] theorem chan_modSer (k : SerialChannel) (f : Serial → Serial) (j : Channel) : (s.modSer k f).chan j = s.chan j := rfl
@[simp] theorem line_setSer (k : SerialChannel) (x : Serial) (j : LineNum) : (s.setSer k x).line j = s.line j := rfl
@[simp] theorem line_modSer (k : SerialChannel) (f : Serial → Serial) (j : LineNum) : (s.modSer k f).line j = s.line j := rfl
@[simp] theorem slot_setSer (k : SerialChannel) (x : Serial) (j : PatternNum) : (s.setSer k x).slot j = s.slot j := rfl
@[simp] theorem slot_modSer (k : SerialChannel) (f : Serial → Serial) (j : PatternNum) : (s.modSer k f).slot j = s.slot j := rfl
@[simp] theorem output_setSer (k : SerialChannel) (x : Serial) (j : OutputNum) : (s.setSer k x).output j = s.output j := rfl
@[simp] theorem output_modSer (k : SerialChannel) (f : Serial → Serial) (j : OutputNum) : (s.modSer k f).output j = s.output j := rfl

/-! ## setLine -/

@[simp] theorem line_setLine_same (k : LineNum) (x : Line) : (s.setLine k x).line k = x := by
  simp [State.line, State.setLine]

theorem line_setLine_other {k j : LineNum} (x : Line) (h : j ≠ k) : (s.setLine k x).line j = s.line j := by
  simp [State.line, State.setLine, Fin.val_inj, Ne.symm h]

theorem line_setLine (k j : LineNum) (x : Line) : (s.setLine k x).line j = if j = k then x else s.line j := by
  by_cases h : j = k
  · subst h; simp
  · simp [h, line_setLine_other]

@[simp] theorem line_modLine_same (k : LineNum) (f : Line → Line) : (s.modLine k f).line k = f (s.line k) := by
  simp [State.modLine]

theorem line_modLine_other {k j : LineNum} (f : Line → Line) (h : j ≠ k) : (s.modLine k f).line j = s.line j := by
  simp [State.modLine, line_setLine_other, h]

theorem line_modLine (k j : LineNum) (f : Line → Line) : (s.modLine k f).line j = if j = k then f (s.line k) else s.line j := by
  simp [State.modLine, line_setLine]

@[simp] theorem setLine_inReset (k : LineNum) (x : Line) : (s.setLine k x).inReset = s.inReset := rfl
@[simp] theorem modLine_inReset (k : LineNum) (f : Line → Line) : (s.modLine k f).inReset = s.inReset := rfl
@[simp] theorem setLine_dataOut (k : LineNum) (x : Line) : (s.setLine k x).dataOut = s.dataOut := rfl
@[simp] theorem modLine_dataOut (k : LineNum) (f : Line → Line) : (s.modLine k f).dataOut = s.dataOut := rfl
@[simp] theorem setLine_serial (k : LineNum) (x : Line) : (s.setLine k x).serial = s.serial := rfl
@[simp] theorem modLine_serial (k : LineNum) (f : Line → Line) : (s.modLine k f).serial = s.serial := rfl
@[simp] theorem setLine_debounce (k : LineNum) (x : Line) : (s.setLine k x).debounce = s.debounce := rfl
@[simp] theorem modLine_debounce (k : LineNum) (f : Line → Line) : (s.modLine k f).debounce = s.debounce := rfl
@[simp] theorem setLine_chans (k : LineNum) (x : Line) : (s.setLine k x).chans = s.chans := rfl
@[simp] theorem modLine_chans (k : LineNum) (f : Line → Line) : (s.modLine k f).chans = s.chans := rfl
@[simp] theorem setLine_slots (k : LineNum) (x : Line) : (s.setLine k x).slots = s.slots := rfl
@[simp] theorem modLine_slots (k : LineNum) (f : Line → Line) : (s.modLine k f).slots = s.slots := rfl
@[simp] theorem setLine_pool (k : LineNum) (x : Line) : (s.setLine k x).pool = s.pool := rfl
@[simp] theorem modLine_pool (k : LineNum) (f : Line → Line) : (s.modLine k f).pool = s.pool := rfl
@[simp] theorem setLine_lastServed (k : LineNum) (x : Line) : (s.setLine k x).lastServed = s.lastServed := rfl
@[simp] theorem modLine_lastServed (k : LineNum) (f : Line → Line) : (s.modLine k f).lastServed = s.lastServed := rfl
@[simp] theorem setLine_eventQueue (k : LineNum) (x : Line) : (s.setLine k x).eventQueue = s.eventQueue := rfl
@[simp] theorem modLine_eventQueue (k : LineNum) (f : Line → Line) : (s.modLine k f).eventQueue = s.eventQueue := rfl
@[simp] theorem setLine_presented (k : LineNum) (x : Line) : (s.setLine k x).presented = s.presented := rfl
@[simp] theorem modLine_presented (k : LineNum) (f : Line → Line) : (s.modLine k f).presented = s.presented := rfl
@[simp] theorem setLine_lostMask (k : LineNum) (x : Line) : (s.setLine k x).lostMask = s.lostMask := rfl
@[simp] theorem modLine_lostMask (k : LineNum) (f : Line → Line) : (s.modLine k f).lostMask = s.lostMask := rfl
@[simp] theorem setLine_eventSeq (k : LineNum) (x : Line) : (s.setLine k x).eventSeq = s.eventSeq := rfl
@[simp] theorem modLine_eventSeq (k : LineNum) (f : Line → Line) : (s.modLine k f).eventSeq = s.eventSeq := rfl
@[simp] theorem setLine_eventLevels (k : LineNum) (x : Line) : (s.setLine k x).eventLevels = s.eventLevels := rfl
@[simp] theorem modLine_eventLevels (k : LineNum) (f : Line → Line) : (s.modLine k f).eventLevels = s.eventLevels := rfl
@[simp] theorem setLine_intEnable (k : LineNum) (x : Line) : (s.setLine k x).intEnable = s.intEnable := rfl
@[simp] theorem modLine_intEnable (k : LineNum) (f : Line → Line) : (s.modLine k f).intEnable = s.intEnable := rfl
@[simp] theorem setLine_intFloor (k : LineNum) (x : Line) : (s.setLine k x).intFloor = s.intFloor := rfl
@[simp] theorem modLine_intFloor (k : LineNum) (f : Line → Line) : (s.modLine k f).intFloor = s.intFloor := rfl
@[simp] theorem setLine_wakeFloor (k : LineNum) (x : Line) : (s.setLine k x).wakeFloor = s.wakeFloor := rfl
@[simp] theorem modLine_wakeFloor (k : LineNum) (f : Line → Line) : (s.modLine k f).wakeFloor = s.wakeFloor := rfl
@[simp] theorem setLine_intLine (k : LineNum) (x : Line) : (s.setLine k x).intLine = s.intLine := rfl
@[simp] theorem modLine_intLine (k : LineNum) (f : Line → Line) : (s.modLine k f).intLine = s.intLine := rfl
@[simp] theorem setLine_wakeLine (k : LineNum) (x : Line) : (s.setLine k x).wakeLine = s.wakeLine := rfl
@[simp] theorem modLine_wakeLine (k : LineNum) (f : Line → Line) : (s.modLine k f).wakeLine = s.wakeLine := rfl
@[simp] theorem setLine_outputs (k : LineNum) (x : Line) : (s.setLine k x).outputs = s.outputs := rfl
@[simp] theorem modLine_outputs (k : LineNum) (f : Line → Line) : (s.modLine k f).outputs = s.outputs := rfl
@[simp] theorem setLine_staging (k : LineNum) (x : Line) : (s.setLine k x).staging = s.staging := rfl
@[simp] theorem modLine_staging (k : LineNum) (f : Line → Line) : (s.modLine k f).staging = s.staging := rfl
@[simp] theorem setLine_stageAddr (k : LineNum) (x : Line) : (s.setLine k x).stageAddr = s.stageAddr := rfl
@[simp] theorem modLine_stageAddr (k : LineNum) (f : Line → Line) : (s.modLine k f).stageAddr = s.stageAddr := rfl
@[simp] theorem setLine_operand (k : LineNum) (x : Line) : (s.setLine k x).operand = s.operand := rfl
@[simp] theorem modLine_operand (k : LineNum) (f : Line → Line) : (s.modLine k f).operand = s.operand := rfl
@[simp] theorem setLine_pendingCommand (k : LineNum) (x : Line) : (s.setLine k x).pendingCommand = s.pendingCommand := rfl
@[simp] theorem modLine_pendingCommand (k : LineNum) (f : Line → Line) : (s.modLine k f).pendingCommand = s.pendingCommand := rfl
@[simp] theorem setLine_lastCommand (k : LineNum) (x : Line) : (s.setLine k x).lastCommand = s.lastCommand := rfl
@[simp] theorem modLine_lastCommand (k : LineNum) (f : Line → Line) : (s.modLine k f).lastCommand = s.lastCommand := rfl
@[simp] theorem setLine_result (k : LineNum) (x : Line) : (s.setLine k x).result = s.result := rfl
@[simp] theorem modLine_result (k : LineNum) (f : Line → Line) : (s.modLine k f).result = s.result := rfl
@[simp] theorem setLine_compacting (k : LineNum) (x : Line) : (s.setLine k x).compacting = s.compacting := rfl
@[simp] theorem modLine_compacting (k : LineNum) (f : Line → Line) : (s.modLine k f).compacting = s.compacting := rfl
@[simp] theorem setLine_arbiterMode (k : LineNum) (x : Line) : (s.setLine k x).arbiterMode = s.arbiterMode := rfl
@[simp] theorem modLine_arbiterMode (k : LineNum) (f : Line → Line) : (s.modLine k f).arbiterMode = s.arbiterMode := rfl
@[simp] theorem setLine_lastGrant (k : LineNum) (x : Line) : (s.setLine k x).lastGrant = s.lastGrant := rfl
@[simp] theorem modLine_lastGrant (k : LineNum) (f : Line → Line) : (s.modLine k f).lastGrant = s.lastGrant := rfl
@[simp] theorem setLine_grant (k : LineNum) (x : Line) : (s.setLine k x).grant = s.grant := rfl
@[simp] theorem modLine_grant (k : LineNum) (f : Line → Line) : (s.modLine k f).grant = s.grant := rfl
@[simp] theorem setLine_timeBase (k : LineNum) (x : Line) : (s.setLine k x).timeBase = s.timeBase := rfl
@[simp] theorem modLine_timeBase (k : LineNum) (f : Line → Line) : (s.modLine k f).timeBase = s.timeBase := rfl
@[simp] theorem setLine_chanSel (k : LineNum) (x : Line) : (s.setLine k x).chanSel = s.chanSel := rfl
@[simp] theorem modLine_chanSel (k : LineNum) (f : Line → Line) : (s.modLine k f).chanSel = s.chanSel := rfl
@[simp] theorem setLine_configAddr (k : LineNum) (x : Line) : (s.setLine k x).configAddr = s.configAddr := rfl
@[simp] theorem modLine_configAddr (k : LineNum) (f : Line → Line) : (s.modLine k f).configAddr = s.configAddr := rfl
@[simp] theorem setLine_classSel (k : LineNum) (x : Line) : (s.setLine k x).classSel = s.classSel := rfl
@[simp] theorem modLine_classSel (k : LineNum) (f : Line → Line) : (s.modLine k f).classSel = s.classSel := rfl
@[simp] theorem setLine_classAddr (k : LineNum) (x : Line) : (s.setLine k x).classAddr = s.classAddr := rfl
@[simp] theorem modLine_classAddr (k : LineNum) (f : Line → Line) : (s.modLine k f).classAddr = s.classAddr := rfl
@[simp] theorem setLine_pending (k : LineNum) (x : Line) : (s.setLine k x).pending = s.pending := rfl
@[simp] theorem modLine_pending (k : LineNum) (f : Line → Line) : (s.modLine k f).pending = s.pending := rfl

@[simp] theorem chan_setLine (k : LineNum) (x : Line) (j : Channel) : (s.setLine k x).chan j = s.chan j := rfl
@[simp] theorem chan_modLine (k : LineNum) (f : Line → Line) (j : Channel) : (s.modLine k f).chan j = s.chan j := rfl
@[simp] theorem ser_setLine (k : LineNum) (x : Line) (j : SerialChannel) : (s.setLine k x).ser j = s.ser j := rfl
@[simp] theorem ser_modLine (k : LineNum) (f : Line → Line) (j : SerialChannel) : (s.modLine k f).ser j = s.ser j := rfl
@[simp] theorem slot_setLine (k : LineNum) (x : Line) (j : PatternNum) : (s.setLine k x).slot j = s.slot j := rfl
@[simp] theorem slot_modLine (k : LineNum) (f : Line → Line) (j : PatternNum) : (s.modLine k f).slot j = s.slot j := rfl
@[simp] theorem output_setLine (k : LineNum) (x : Line) (j : OutputNum) : (s.setLine k x).output j = s.output j := rfl
@[simp] theorem output_modLine (k : LineNum) (f : Line → Line) (j : OutputNum) : (s.modLine k f).output j = s.output j := rfl

/-! ## setSlot -/

@[simp] theorem slot_setSlot_same (k : PatternNum) (x : Slot) : (s.setSlot k x).slot k = x := by
  simp [State.slot, State.setSlot]

theorem slot_setSlot_other {k j : PatternNum} (x : Slot) (h : j ≠ k) : (s.setSlot k x).slot j = s.slot j := by
  simp [State.slot, State.setSlot, Fin.val_inj, Ne.symm h]

theorem slot_setSlot (k j : PatternNum) (x : Slot) : (s.setSlot k x).slot j = if j = k then x else s.slot j := by
  by_cases h : j = k
  · subst h; simp
  · simp [h, slot_setSlot_other]

@[simp] theorem setSlot_inReset (k : PatternNum) (x : Slot) : (s.setSlot k x).inReset = s.inReset := rfl
@[simp] theorem setSlot_dataOut (k : PatternNum) (x : Slot) : (s.setSlot k x).dataOut = s.dataOut := rfl
@[simp] theorem setSlot_serial (k : PatternNum) (x : Slot) : (s.setSlot k x).serial = s.serial := rfl
@[simp] theorem setSlot_lines (k : PatternNum) (x : Slot) : (s.setSlot k x).lines = s.lines := rfl
@[simp] theorem setSlot_debounce (k : PatternNum) (x : Slot) : (s.setSlot k x).debounce = s.debounce := rfl
@[simp] theorem setSlot_chans (k : PatternNum) (x : Slot) : (s.setSlot k x).chans = s.chans := rfl
@[simp] theorem setSlot_pool (k : PatternNum) (x : Slot) : (s.setSlot k x).pool = s.pool := rfl
@[simp] theorem setSlot_lastServed (k : PatternNum) (x : Slot) : (s.setSlot k x).lastServed = s.lastServed := rfl
@[simp] theorem setSlot_eventQueue (k : PatternNum) (x : Slot) : (s.setSlot k x).eventQueue = s.eventQueue := rfl
@[simp] theorem setSlot_presented (k : PatternNum) (x : Slot) : (s.setSlot k x).presented = s.presented := rfl
@[simp] theorem setSlot_lostMask (k : PatternNum) (x : Slot) : (s.setSlot k x).lostMask = s.lostMask := rfl
@[simp] theorem setSlot_eventSeq (k : PatternNum) (x : Slot) : (s.setSlot k x).eventSeq = s.eventSeq := rfl
@[simp] theorem setSlot_eventLevels (k : PatternNum) (x : Slot) : (s.setSlot k x).eventLevels = s.eventLevels := rfl
@[simp] theorem setSlot_intEnable (k : PatternNum) (x : Slot) : (s.setSlot k x).intEnable = s.intEnable := rfl
@[simp] theorem setSlot_intFloor (k : PatternNum) (x : Slot) : (s.setSlot k x).intFloor = s.intFloor := rfl
@[simp] theorem setSlot_wakeFloor (k : PatternNum) (x : Slot) : (s.setSlot k x).wakeFloor = s.wakeFloor := rfl
@[simp] theorem setSlot_intLine (k : PatternNum) (x : Slot) : (s.setSlot k x).intLine = s.intLine := rfl
@[simp] theorem setSlot_wakeLine (k : PatternNum) (x : Slot) : (s.setSlot k x).wakeLine = s.wakeLine := rfl
@[simp] theorem setSlot_outputs (k : PatternNum) (x : Slot) : (s.setSlot k x).outputs = s.outputs := rfl
@[simp] theorem setSlot_staging (k : PatternNum) (x : Slot) : (s.setSlot k x).staging = s.staging := rfl
@[simp] theorem setSlot_stageAddr (k : PatternNum) (x : Slot) : (s.setSlot k x).stageAddr = s.stageAddr := rfl
@[simp] theorem setSlot_operand (k : PatternNum) (x : Slot) : (s.setSlot k x).operand = s.operand := rfl
@[simp] theorem setSlot_pendingCommand (k : PatternNum) (x : Slot) : (s.setSlot k x).pendingCommand = s.pendingCommand := rfl
@[simp] theorem setSlot_lastCommand (k : PatternNum) (x : Slot) : (s.setSlot k x).lastCommand = s.lastCommand := rfl
@[simp] theorem setSlot_result (k : PatternNum) (x : Slot) : (s.setSlot k x).result = s.result := rfl
@[simp] theorem setSlot_compacting (k : PatternNum) (x : Slot) : (s.setSlot k x).compacting = s.compacting := rfl
@[simp] theorem setSlot_arbiterMode (k : PatternNum) (x : Slot) : (s.setSlot k x).arbiterMode = s.arbiterMode := rfl
@[simp] theorem setSlot_lastGrant (k : PatternNum) (x : Slot) : (s.setSlot k x).lastGrant = s.lastGrant := rfl
@[simp] theorem setSlot_grant (k : PatternNum) (x : Slot) : (s.setSlot k x).grant = s.grant := rfl
@[simp] theorem setSlot_timeBase (k : PatternNum) (x : Slot) : (s.setSlot k x).timeBase = s.timeBase := rfl
@[simp] theorem setSlot_chanSel (k : PatternNum) (x : Slot) : (s.setSlot k x).chanSel = s.chanSel := rfl
@[simp] theorem setSlot_configAddr (k : PatternNum) (x : Slot) : (s.setSlot k x).configAddr = s.configAddr := rfl
@[simp] theorem setSlot_classSel (k : PatternNum) (x : Slot) : (s.setSlot k x).classSel = s.classSel := rfl
@[simp] theorem setSlot_classAddr (k : PatternNum) (x : Slot) : (s.setSlot k x).classAddr = s.classAddr := rfl
@[simp] theorem setSlot_pending (k : PatternNum) (x : Slot) : (s.setSlot k x).pending = s.pending := rfl

@[simp] theorem chan_setSlot (k : PatternNum) (x : Slot) (j : Channel) : (s.setSlot k x).chan j = s.chan j := rfl
@[simp] theorem ser_setSlot (k : PatternNum) (x : Slot) (j : SerialChannel) : (s.setSlot k x).ser j = s.ser j := rfl
@[simp] theorem line_setSlot (k : PatternNum) (x : Slot) (j : LineNum) : (s.setSlot k x).line j = s.line j := rfl
@[simp] theorem output_setSlot (k : PatternNum) (x : Slot) (j : OutputNum) : (s.setSlot k x).output j = s.output j := rfl

/-! ## setOutput -/

@[simp] theorem output_setOutput_same (k : OutputNum) (x : Output) : (s.setOutput k x).output k = x := by
  simp [State.output, State.setOutput]

theorem output_setOutput_other {k j : OutputNum} (x : Output) (h : j ≠ k) : (s.setOutput k x).output j = s.output j := by
  simp [State.output, State.setOutput, Fin.val_inj, Ne.symm h]

theorem output_setOutput (k j : OutputNum) (x : Output) : (s.setOutput k x).output j = if j = k then x else s.output j := by
  by_cases h : j = k
  · subst h; simp
  · simp [h, output_setOutput_other]

@[simp] theorem output_modOutput_same (k : OutputNum) (f : Output → Output) : (s.modOutput k f).output k = f (s.output k) := by
  simp [State.modOutput]

theorem output_modOutput_other {k j : OutputNum} (f : Output → Output) (h : j ≠ k) : (s.modOutput k f).output j = s.output j := by
  simp [State.modOutput, output_setOutput_other, h]

theorem output_modOutput (k j : OutputNum) (f : Output → Output) : (s.modOutput k f).output j = if j = k then f (s.output k) else s.output j := by
  simp [State.modOutput, output_setOutput]

@[simp] theorem setOutput_inReset (k : OutputNum) (x : Output) : (s.setOutput k x).inReset = s.inReset := rfl
@[simp] theorem modOutput_inReset (k : OutputNum) (f : Output → Output) : (s.modOutput k f).inReset = s.inReset := rfl
@[simp] theorem setOutput_dataOut (k : OutputNum) (x : Output) : (s.setOutput k x).dataOut = s.dataOut := rfl
@[simp] theorem modOutput_dataOut (k : OutputNum) (f : Output → Output) : (s.modOutput k f).dataOut = s.dataOut := rfl
@[simp] theorem setOutput_serial (k : OutputNum) (x : Output) : (s.setOutput k x).serial = s.serial := rfl
@[simp] theorem modOutput_serial (k : OutputNum) (f : Output → Output) : (s.modOutput k f).serial = s.serial := rfl
@[simp] theorem setOutput_lines (k : OutputNum) (x : Output) : (s.setOutput k x).lines = s.lines := rfl
@[simp] theorem modOutput_lines (k : OutputNum) (f : Output → Output) : (s.modOutput k f).lines = s.lines := rfl
@[simp] theorem setOutput_debounce (k : OutputNum) (x : Output) : (s.setOutput k x).debounce = s.debounce := rfl
@[simp] theorem modOutput_debounce (k : OutputNum) (f : Output → Output) : (s.modOutput k f).debounce = s.debounce := rfl
@[simp] theorem setOutput_chans (k : OutputNum) (x : Output) : (s.setOutput k x).chans = s.chans := rfl
@[simp] theorem modOutput_chans (k : OutputNum) (f : Output → Output) : (s.modOutput k f).chans = s.chans := rfl
@[simp] theorem setOutput_slots (k : OutputNum) (x : Output) : (s.setOutput k x).slots = s.slots := rfl
@[simp] theorem modOutput_slots (k : OutputNum) (f : Output → Output) : (s.modOutput k f).slots = s.slots := rfl
@[simp] theorem setOutput_pool (k : OutputNum) (x : Output) : (s.setOutput k x).pool = s.pool := rfl
@[simp] theorem modOutput_pool (k : OutputNum) (f : Output → Output) : (s.modOutput k f).pool = s.pool := rfl
@[simp] theorem setOutput_lastServed (k : OutputNum) (x : Output) : (s.setOutput k x).lastServed = s.lastServed := rfl
@[simp] theorem modOutput_lastServed (k : OutputNum) (f : Output → Output) : (s.modOutput k f).lastServed = s.lastServed := rfl
@[simp] theorem setOutput_eventQueue (k : OutputNum) (x : Output) : (s.setOutput k x).eventQueue = s.eventQueue := rfl
@[simp] theorem modOutput_eventQueue (k : OutputNum) (f : Output → Output) : (s.modOutput k f).eventQueue = s.eventQueue := rfl
@[simp] theorem setOutput_presented (k : OutputNum) (x : Output) : (s.setOutput k x).presented = s.presented := rfl
@[simp] theorem modOutput_presented (k : OutputNum) (f : Output → Output) : (s.modOutput k f).presented = s.presented := rfl
@[simp] theorem setOutput_lostMask (k : OutputNum) (x : Output) : (s.setOutput k x).lostMask = s.lostMask := rfl
@[simp] theorem modOutput_lostMask (k : OutputNum) (f : Output → Output) : (s.modOutput k f).lostMask = s.lostMask := rfl
@[simp] theorem setOutput_eventSeq (k : OutputNum) (x : Output) : (s.setOutput k x).eventSeq = s.eventSeq := rfl
@[simp] theorem modOutput_eventSeq (k : OutputNum) (f : Output → Output) : (s.modOutput k f).eventSeq = s.eventSeq := rfl
@[simp] theorem setOutput_eventLevels (k : OutputNum) (x : Output) : (s.setOutput k x).eventLevels = s.eventLevels := rfl
@[simp] theorem modOutput_eventLevels (k : OutputNum) (f : Output → Output) : (s.modOutput k f).eventLevels = s.eventLevels := rfl
@[simp] theorem setOutput_intEnable (k : OutputNum) (x : Output) : (s.setOutput k x).intEnable = s.intEnable := rfl
@[simp] theorem modOutput_intEnable (k : OutputNum) (f : Output → Output) : (s.modOutput k f).intEnable = s.intEnable := rfl
@[simp] theorem setOutput_intFloor (k : OutputNum) (x : Output) : (s.setOutput k x).intFloor = s.intFloor := rfl
@[simp] theorem modOutput_intFloor (k : OutputNum) (f : Output → Output) : (s.modOutput k f).intFloor = s.intFloor := rfl
@[simp] theorem setOutput_wakeFloor (k : OutputNum) (x : Output) : (s.setOutput k x).wakeFloor = s.wakeFloor := rfl
@[simp] theorem modOutput_wakeFloor (k : OutputNum) (f : Output → Output) : (s.modOutput k f).wakeFloor = s.wakeFloor := rfl
@[simp] theorem setOutput_intLine (k : OutputNum) (x : Output) : (s.setOutput k x).intLine = s.intLine := rfl
@[simp] theorem modOutput_intLine (k : OutputNum) (f : Output → Output) : (s.modOutput k f).intLine = s.intLine := rfl
@[simp] theorem setOutput_wakeLine (k : OutputNum) (x : Output) : (s.setOutput k x).wakeLine = s.wakeLine := rfl
@[simp] theorem modOutput_wakeLine (k : OutputNum) (f : Output → Output) : (s.modOutput k f).wakeLine = s.wakeLine := rfl
@[simp] theorem setOutput_staging (k : OutputNum) (x : Output) : (s.setOutput k x).staging = s.staging := rfl
@[simp] theorem modOutput_staging (k : OutputNum) (f : Output → Output) : (s.modOutput k f).staging = s.staging := rfl
@[simp] theorem setOutput_stageAddr (k : OutputNum) (x : Output) : (s.setOutput k x).stageAddr = s.stageAddr := rfl
@[simp] theorem modOutput_stageAddr (k : OutputNum) (f : Output → Output) : (s.modOutput k f).stageAddr = s.stageAddr := rfl
@[simp] theorem setOutput_operand (k : OutputNum) (x : Output) : (s.setOutput k x).operand = s.operand := rfl
@[simp] theorem modOutput_operand (k : OutputNum) (f : Output → Output) : (s.modOutput k f).operand = s.operand := rfl
@[simp] theorem setOutput_pendingCommand (k : OutputNum) (x : Output) : (s.setOutput k x).pendingCommand = s.pendingCommand := rfl
@[simp] theorem modOutput_pendingCommand (k : OutputNum) (f : Output → Output) : (s.modOutput k f).pendingCommand = s.pendingCommand := rfl
@[simp] theorem setOutput_lastCommand (k : OutputNum) (x : Output) : (s.setOutput k x).lastCommand = s.lastCommand := rfl
@[simp] theorem modOutput_lastCommand (k : OutputNum) (f : Output → Output) : (s.modOutput k f).lastCommand = s.lastCommand := rfl
@[simp] theorem setOutput_result (k : OutputNum) (x : Output) : (s.setOutput k x).result = s.result := rfl
@[simp] theorem modOutput_result (k : OutputNum) (f : Output → Output) : (s.modOutput k f).result = s.result := rfl
@[simp] theorem setOutput_compacting (k : OutputNum) (x : Output) : (s.setOutput k x).compacting = s.compacting := rfl
@[simp] theorem modOutput_compacting (k : OutputNum) (f : Output → Output) : (s.modOutput k f).compacting = s.compacting := rfl
@[simp] theorem setOutput_arbiterMode (k : OutputNum) (x : Output) : (s.setOutput k x).arbiterMode = s.arbiterMode := rfl
@[simp] theorem modOutput_arbiterMode (k : OutputNum) (f : Output → Output) : (s.modOutput k f).arbiterMode = s.arbiterMode := rfl
@[simp] theorem setOutput_lastGrant (k : OutputNum) (x : Output) : (s.setOutput k x).lastGrant = s.lastGrant := rfl
@[simp] theorem modOutput_lastGrant (k : OutputNum) (f : Output → Output) : (s.modOutput k f).lastGrant = s.lastGrant := rfl
@[simp] theorem setOutput_grant (k : OutputNum) (x : Output) : (s.setOutput k x).grant = s.grant := rfl
@[simp] theorem modOutput_grant (k : OutputNum) (f : Output → Output) : (s.modOutput k f).grant = s.grant := rfl
@[simp] theorem setOutput_timeBase (k : OutputNum) (x : Output) : (s.setOutput k x).timeBase = s.timeBase := rfl
@[simp] theorem modOutput_timeBase (k : OutputNum) (f : Output → Output) : (s.modOutput k f).timeBase = s.timeBase := rfl
@[simp] theorem setOutput_chanSel (k : OutputNum) (x : Output) : (s.setOutput k x).chanSel = s.chanSel := rfl
@[simp] theorem modOutput_chanSel (k : OutputNum) (f : Output → Output) : (s.modOutput k f).chanSel = s.chanSel := rfl
@[simp] theorem setOutput_configAddr (k : OutputNum) (x : Output) : (s.setOutput k x).configAddr = s.configAddr := rfl
@[simp] theorem modOutput_configAddr (k : OutputNum) (f : Output → Output) : (s.modOutput k f).configAddr = s.configAddr := rfl
@[simp] theorem setOutput_classSel (k : OutputNum) (x : Output) : (s.setOutput k x).classSel = s.classSel := rfl
@[simp] theorem modOutput_classSel (k : OutputNum) (f : Output → Output) : (s.modOutput k f).classSel = s.classSel := rfl
@[simp] theorem setOutput_classAddr (k : OutputNum) (x : Output) : (s.setOutput k x).classAddr = s.classAddr := rfl
@[simp] theorem modOutput_classAddr (k : OutputNum) (f : Output → Output) : (s.modOutput k f).classAddr = s.classAddr := rfl
@[simp] theorem setOutput_pending (k : OutputNum) (x : Output) : (s.setOutput k x).pending = s.pending := rfl
@[simp] theorem modOutput_pending (k : OutputNum) (f : Output → Output) : (s.modOutput k f).pending = s.pending := rfl

@[simp] theorem chan_setOutput (k : OutputNum) (x : Output) (j : Channel) : (s.setOutput k x).chan j = s.chan j := rfl
@[simp] theorem chan_modOutput (k : OutputNum) (f : Output → Output) (j : Channel) : (s.modOutput k f).chan j = s.chan j := rfl
@[simp] theorem ser_setOutput (k : OutputNum) (x : Output) (j : SerialChannel) : (s.setOutput k x).ser j = s.ser j := rfl
@[simp] theorem ser_modOutput (k : OutputNum) (f : Output → Output) (j : SerialChannel) : (s.modOutput k f).ser j = s.ser j := rfl
@[simp] theorem line_setOutput (k : OutputNum) (x : Output) (j : LineNum) : (s.setOutput k x).line j = s.line j := rfl
@[simp] theorem line_modOutput (k : OutputNum) (f : Output → Output) (j : LineNum) : (s.modOutput k f).line j = s.line j := rfl
@[simp] theorem slot_setOutput (k : OutputNum) (x : Output) (j : PatternNum) : (s.setOutput k x).slot j = s.slot j := rfl
@[simp] theorem slot_modOutput (k : OutputNum) (f : Output → Output) (j : PatternNum) : (s.modOutput k f).slot j = s.slot j := rfl

/-! ## refreshLines -/

@[simp] theorem refreshLines_inReset : (s.refreshLines).inReset = s.inReset := rfl
@[simp] theorem refreshLines_dataOut : (s.refreshLines).dataOut = s.dataOut := rfl
@[simp] theorem refreshLines_serial : (s.refreshLines).serial = s.serial := rfl
@[simp] theorem refreshLines_lines : (s.refreshLines).lines = s.lines := rfl
@[simp] theorem refreshLines_debounce : (s.refreshLines).debounce = s.debounce := rfl
@[simp] theorem refreshLines_chans : (s.refreshLines).chans = s.chans := rfl
@[simp] theorem refreshLines_slots : (s.refreshLines).slots = s.slots := rfl
@[simp] theorem refreshLines_pool : (s.refreshLines).pool = s.pool := rfl
@[simp] theorem refreshLines_lastServed : (s.refreshLines).lastServed = s.lastServed := rfl
@[simp] theorem refreshLines_eventQueue : (s.refreshLines).eventQueue = s.eventQueue := rfl
@[simp] theorem refreshLines_presented : (s.refreshLines).presented = s.presented := rfl
@[simp] theorem refreshLines_lostMask : (s.refreshLines).lostMask = s.lostMask := rfl
@[simp] theorem refreshLines_eventSeq : (s.refreshLines).eventSeq = s.eventSeq := rfl
@[simp] theorem refreshLines_eventLevels : (s.refreshLines).eventLevels = s.eventLevels := rfl
@[simp] theorem refreshLines_intEnable : (s.refreshLines).intEnable = s.intEnable := rfl
@[simp] theorem refreshLines_intFloor : (s.refreshLines).intFloor = s.intFloor := rfl
@[simp] theorem refreshLines_wakeFloor : (s.refreshLines).wakeFloor = s.wakeFloor := rfl
@[simp] theorem refreshLines_outputs : (s.refreshLines).outputs = s.outputs := rfl
@[simp] theorem refreshLines_staging : (s.refreshLines).staging = s.staging := rfl
@[simp] theorem refreshLines_stageAddr : (s.refreshLines).stageAddr = s.stageAddr := rfl
@[simp] theorem refreshLines_operand : (s.refreshLines).operand = s.operand := rfl
@[simp] theorem refreshLines_pendingCommand : (s.refreshLines).pendingCommand = s.pendingCommand := rfl
@[simp] theorem refreshLines_lastCommand : (s.refreshLines).lastCommand = s.lastCommand := rfl
@[simp] theorem refreshLines_result : (s.refreshLines).result = s.result := rfl
@[simp] theorem refreshLines_compacting : (s.refreshLines).compacting = s.compacting := rfl
@[simp] theorem refreshLines_arbiterMode : (s.refreshLines).arbiterMode = s.arbiterMode := rfl
@[simp] theorem refreshLines_lastGrant : (s.refreshLines).lastGrant = s.lastGrant := rfl
@[simp] theorem refreshLines_grant : (s.refreshLines).grant = s.grant := rfl
@[simp] theorem refreshLines_timeBase : (s.refreshLines).timeBase = s.timeBase := rfl
@[simp] theorem refreshLines_chanSel : (s.refreshLines).chanSel = s.chanSel := rfl
@[simp] theorem refreshLines_configAddr : (s.refreshLines).configAddr = s.configAddr := rfl
@[simp] theorem refreshLines_classSel : (s.refreshLines).classSel = s.classSel := rfl
@[simp] theorem refreshLines_classAddr : (s.refreshLines).classAddr = s.classAddr := rfl
@[simp] theorem refreshLines_pending : (s.refreshLines).pending = s.pending := rfl
@[simp] theorem chan_refreshLines (j : Channel) : (s.refreshLines).chan j = s.chan j := rfl
@[simp] theorem ser_refreshLines (j : SerialChannel) : (s.refreshLines).ser j = s.ser j := rfl
@[simp] theorem line_refreshLines (j : LineNum) : (s.refreshLines).line j = s.line j := rfl
@[simp] theorem slot_refreshLines (j : PatternNum) : (s.refreshLines).slot j = s.slot j := rfl
@[simp] theorem output_refreshLines (j : OutputNum) : (s.refreshLines).output j = s.output j := rfl

/-! ## markLost -/

@[simp] theorem markLost_inReset (l : EventLevel) : (s.markLost l).inReset = s.inReset := rfl
@[simp] theorem markLost_dataOut (l : EventLevel) : (s.markLost l).dataOut = s.dataOut := rfl
@[simp] theorem markLost_serial (l : EventLevel) : (s.markLost l).serial = s.serial := rfl
@[simp] theorem markLost_lines (l : EventLevel) : (s.markLost l).lines = s.lines := rfl
@[simp] theorem markLost_debounce (l : EventLevel) : (s.markLost l).debounce = s.debounce := rfl
@[simp] theorem markLost_chans (l : EventLevel) : (s.markLost l).chans = s.chans := rfl
@[simp] theorem markLost_slots (l : EventLevel) : (s.markLost l).slots = s.slots := rfl
@[simp] theorem markLost_pool (l : EventLevel) : (s.markLost l).pool = s.pool := rfl
@[simp] theorem markLost_lastServed (l : EventLevel) : (s.markLost l).lastServed = s.lastServed := rfl
@[simp] theorem markLost_eventQueue (l : EventLevel) : (s.markLost l).eventQueue = s.eventQueue := rfl
@[simp] theorem markLost_presented (l : EventLevel) : (s.markLost l).presented = s.presented := rfl
@[simp] theorem markLost_eventSeq (l : EventLevel) : (s.markLost l).eventSeq = s.eventSeq := rfl
@[simp] theorem markLost_eventLevels (l : EventLevel) : (s.markLost l).eventLevels = s.eventLevels := rfl
@[simp] theorem markLost_intEnable (l : EventLevel) : (s.markLost l).intEnable = s.intEnable := rfl
@[simp] theorem markLost_intFloor (l : EventLevel) : (s.markLost l).intFloor = s.intFloor := rfl
@[simp] theorem markLost_wakeFloor (l : EventLevel) : (s.markLost l).wakeFloor = s.wakeFloor := rfl
@[simp] theorem markLost_intLine (l : EventLevel) : (s.markLost l).intLine = s.intLine := rfl
@[simp] theorem markLost_wakeLine (l : EventLevel) : (s.markLost l).wakeLine = s.wakeLine := rfl
@[simp] theorem markLost_outputs (l : EventLevel) : (s.markLost l).outputs = s.outputs := rfl
@[simp] theorem markLost_staging (l : EventLevel) : (s.markLost l).staging = s.staging := rfl
@[simp] theorem markLost_stageAddr (l : EventLevel) : (s.markLost l).stageAddr = s.stageAddr := rfl
@[simp] theorem markLost_operand (l : EventLevel) : (s.markLost l).operand = s.operand := rfl
@[simp] theorem markLost_pendingCommand (l : EventLevel) : (s.markLost l).pendingCommand = s.pendingCommand := rfl
@[simp] theorem markLost_lastCommand (l : EventLevel) : (s.markLost l).lastCommand = s.lastCommand := rfl
@[simp] theorem markLost_result (l : EventLevel) : (s.markLost l).result = s.result := rfl
@[simp] theorem markLost_compacting (l : EventLevel) : (s.markLost l).compacting = s.compacting := rfl
@[simp] theorem markLost_arbiterMode (l : EventLevel) : (s.markLost l).arbiterMode = s.arbiterMode := rfl
@[simp] theorem markLost_lastGrant (l : EventLevel) : (s.markLost l).lastGrant = s.lastGrant := rfl
@[simp] theorem markLost_grant (l : EventLevel) : (s.markLost l).grant = s.grant := rfl
@[simp] theorem markLost_timeBase (l : EventLevel) : (s.markLost l).timeBase = s.timeBase := rfl
@[simp] theorem markLost_chanSel (l : EventLevel) : (s.markLost l).chanSel = s.chanSel := rfl
@[simp] theorem markLost_configAddr (l : EventLevel) : (s.markLost l).configAddr = s.configAddr := rfl
@[simp] theorem markLost_classSel (l : EventLevel) : (s.markLost l).classSel = s.classSel := rfl
@[simp] theorem markLost_classAddr (l : EventLevel) : (s.markLost l).classAddr = s.classAddr := rfl
@[simp] theorem markLost_pending (l : EventLevel) : (s.markLost l).pending = s.pending := rfl
@[simp] theorem chan_markLost (l : EventLevel) (j : Channel) : (s.markLost l).chan j = s.chan j := rfl
@[simp] theorem ser_markLost (l : EventLevel) (j : SerialChannel) : (s.markLost l).ser j = s.ser j := rfl
@[simp] theorem line_markLost (l : EventLevel) (j : LineNum) : (s.markLost l).line j = s.line j := rfl
@[simp] theorem slot_markLost (l : EventLevel) (j : PatternNum) : (s.markLost l).slot j = s.slot j := rfl
@[simp] theorem output_markLost (l : EventLevel) (j : OutputNum) : (s.markLost l).output j = s.output j := rfl

/-! ## useGrant -/

@[simp] theorem useGrant_inReset (c : Claimant) : (s.useGrant c).inReset = s.inReset := rfl
@[simp] theorem useGrant_dataOut (c : Claimant) : (s.useGrant c).dataOut = s.dataOut := rfl
@[simp] theorem useGrant_serial (c : Claimant) : (s.useGrant c).serial = s.serial := rfl
@[simp] theorem useGrant_lines (c : Claimant) : (s.useGrant c).lines = s.lines := rfl
@[simp] theorem useGrant_debounce (c : Claimant) : (s.useGrant c).debounce = s.debounce := rfl
@[simp] theorem useGrant_chans (c : Claimant) : (s.useGrant c).chans = s.chans := rfl
@[simp] theorem useGrant_slots (c : Claimant) : (s.useGrant c).slots = s.slots := rfl
@[simp] theorem useGrant_pool (c : Claimant) : (s.useGrant c).pool = s.pool := rfl
@[simp] theorem useGrant_lastServed (c : Claimant) : (s.useGrant c).lastServed = s.lastServed := rfl
@[simp] theorem useGrant_eventQueue (c : Claimant) : (s.useGrant c).eventQueue = s.eventQueue := rfl
@[simp] theorem useGrant_presented (c : Claimant) : (s.useGrant c).presented = s.presented := rfl
@[simp] theorem useGrant_lostMask (c : Claimant) : (s.useGrant c).lostMask = s.lostMask := rfl
@[simp] theorem useGrant_eventSeq (c : Claimant) : (s.useGrant c).eventSeq = s.eventSeq := rfl
@[simp] theorem useGrant_eventLevels (c : Claimant) : (s.useGrant c).eventLevels = s.eventLevels := rfl
@[simp] theorem useGrant_intEnable (c : Claimant) : (s.useGrant c).intEnable = s.intEnable := rfl
@[simp] theorem useGrant_intFloor (c : Claimant) : (s.useGrant c).intFloor = s.intFloor := rfl
@[simp] theorem useGrant_wakeFloor (c : Claimant) : (s.useGrant c).wakeFloor = s.wakeFloor := rfl
@[simp] theorem useGrant_intLine (c : Claimant) : (s.useGrant c).intLine = s.intLine := rfl
@[simp] theorem useGrant_wakeLine (c : Claimant) : (s.useGrant c).wakeLine = s.wakeLine := rfl
@[simp] theorem useGrant_outputs (c : Claimant) : (s.useGrant c).outputs = s.outputs := rfl
@[simp] theorem useGrant_staging (c : Claimant) : (s.useGrant c).staging = s.staging := rfl
@[simp] theorem useGrant_stageAddr (c : Claimant) : (s.useGrant c).stageAddr = s.stageAddr := rfl
@[simp] theorem useGrant_operand (c : Claimant) : (s.useGrant c).operand = s.operand := rfl
@[simp] theorem useGrant_pendingCommand (c : Claimant) : (s.useGrant c).pendingCommand = s.pendingCommand := rfl
@[simp] theorem useGrant_lastCommand (c : Claimant) : (s.useGrant c).lastCommand = s.lastCommand := rfl
@[simp] theorem useGrant_result (c : Claimant) : (s.useGrant c).result = s.result := rfl
@[simp] theorem useGrant_compacting (c : Claimant) : (s.useGrant c).compacting = s.compacting := rfl
@[simp] theorem useGrant_arbiterMode (c : Claimant) : (s.useGrant c).arbiterMode = s.arbiterMode := rfl
@[simp] theorem useGrant_timeBase (c : Claimant) : (s.useGrant c).timeBase = s.timeBase := rfl
@[simp] theorem useGrant_chanSel (c : Claimant) : (s.useGrant c).chanSel = s.chanSel := rfl
@[simp] theorem useGrant_configAddr (c : Claimant) : (s.useGrant c).configAddr = s.configAddr := rfl
@[simp] theorem useGrant_classSel (c : Claimant) : (s.useGrant c).classSel = s.classSel := rfl
@[simp] theorem useGrant_classAddr (c : Claimant) : (s.useGrant c).classAddr = s.classAddr := rfl
@[simp] theorem useGrant_pending (c : Claimant) : (s.useGrant c).pending = s.pending := rfl
@[simp] theorem chan_useGrant (c : Claimant) (j : Channel) : (s.useGrant c).chan j = s.chan j := rfl
@[simp] theorem ser_useGrant (c : Claimant) (j : SerialChannel) : (s.useGrant c).ser j = s.ser j := rfl
@[simp] theorem line_useGrant (c : Claimant) (j : LineNum) : (s.useGrant c).line j = s.line j := rfl
@[simp] theorem slot_useGrant (c : Claimant) (j : PatternNum) : (s.useGrant c).slot j = s.slot j := rfl
@[simp] theorem output_useGrant (c : Claimant) (j : OutputNum) : (s.useGrant c).output j = s.output j := rfl

@[simp] theorem refreshLines_intLine : s.refreshLines.intLine = s.intCondition := rfl
@[simp] theorem refreshLines_wakeLine : s.refreshLines.wakeLine = s.wakeCondition := rfl
@[simp] theorem useGrant_grant (c : Claimant) : (s.useGrant c).grant = .held c := rfl
@[simp] theorem useGrant_lastGrant (c : Claimant) : (s.useGrant c).lastGrant = c := rfl

end Sys2Proof.Machine
end

