-- ==== Sys2Proof/Laws/Frames.lean ====
section
/-! SUPPORT. What each shared operation leaves alone. `Keeps p s t` says that `t` is `s` but for the parts of the state
that `p` names; each operation has one such lemma, and its field lemmas follow from it. -/

namespace Sys2Proof.Machine

/-- Parts of the state that an operation may change. -/
structure Parts where
  chans : Bool := false
  serial : Bool := false
  lines : Bool := false
  slots : Bool := false
  pool : Bool := false
  outputs : Bool := false
  events : Bool := false
  grant : Bool := false
  compacting : Bool := false

/-- Every part of `p` is a part of `q`. -/
def Parts.within (p q : Parts) : Prop :=
  (p.chans → q.chans) ∧ (p.serial → q.serial) ∧ (p.lines → q.lines) ∧ (p.slots → q.slots) ∧ (p.pool → q.pool) ∧
  (p.outputs → q.outputs) ∧ (p.events → q.events) ∧ (p.grant → q.grant) ∧ (p.compacting → q.compacting)

/-- `t` is `s` but for the parts that `p` names. -/
structure Keeps (p : Parts) (s t : State) : Prop where
  chans : p.chans = false → t.chans = s.chans
  serial : p.serial = false → t.serial = s.serial
  lines : p.lines = false → t.lines = s.lines
  slots : p.slots = false → t.slots = s.slots
  pool : p.pool = false → t.pool = s.pool
  outputs : p.outputs = false → t.outputs = s.outputs
  eventQueue : p.events = false → t.eventQueue = s.eventQueue
  lostMask : p.events = false → t.lostMask = s.lostMask
  eventSeq : p.events = false → t.eventSeq = s.eventSeq
  intLine : p.events = false → t.intLine = s.intLine
  wakeLine : p.events = false → t.wakeLine = s.wakeLine
  grant : p.grant = false → t.grant = s.grant
  compacting : p.compacting = false → t.compacting = s.compacting
  inReset : t.inReset = s.inReset
  dataOut : t.dataOut = s.dataOut
  debounce : t.debounce = s.debounce
  lastServed : t.lastServed = s.lastServed
  presented : t.presented = s.presented
  eventLevels : t.eventLevels = s.eventLevels
  intEnable : t.intEnable = s.intEnable
  intFloor : t.intFloor = s.intFloor
  wakeFloor : t.wakeFloor = s.wakeFloor
  staging : t.staging = s.staging
  stageAddr : t.stageAddr = s.stageAddr
  operand : t.operand = s.operand
  pendingCommand : t.pendingCommand = s.pendingCommand
  lastCommand : t.lastCommand = s.lastCommand
  result : t.result = s.result
  arbiterMode : t.arbiterMode = s.arbiterMode
  lastGrant : t.lastGrant = s.lastGrant
  timeBase : t.timeBase = s.timeBase
  chanSel : t.chanSel = s.chanSel
  configAddr : t.configAddr = s.configAddr
  classSel : t.classSel = s.classSel
  classAddr : t.classAddr = s.classAddr
  pending : t.pending = s.pending

theorem Keeps.refl (p : Parts) (s : State) : Keeps p s s := by constructor <;> intros <;> rfl

theorem Keeps.trans {p : Parts} {s t u : State} (h : Keeps p s t) (k : Keeps p t u) : Keeps p s u where
  chans e := (k.chans e).trans (h.chans e)
  serial e := (k.serial e).trans (h.serial e)
  lines e := (k.lines e).trans (h.lines e)
  slots e := (k.slots e).trans (h.slots e)
  pool e := (k.pool e).trans (h.pool e)
  outputs e := (k.outputs e).trans (h.outputs e)
  eventQueue e := (k.eventQueue e).trans (h.eventQueue e)
  lostMask e := (k.lostMask e).trans (h.lostMask e)
  eventSeq e := (k.eventSeq e).trans (h.eventSeq e)
  intLine e := (k.intLine e).trans (h.intLine e)
  wakeLine e := (k.wakeLine e).trans (h.wakeLine e)
  grant e := (k.grant e).trans (h.grant e)
  compacting e := (k.compacting e).trans (h.compacting e)
  inReset := k.inReset.trans h.inReset
  dataOut := k.dataOut.trans h.dataOut
  debounce := k.debounce.trans h.debounce
  lastServed := k.lastServed.trans h.lastServed
  presented := k.presented.trans h.presented
  eventLevels := k.eventLevels.trans h.eventLevels
  intEnable := k.intEnable.trans h.intEnable
  intFloor := k.intFloor.trans h.intFloor
  wakeFloor := k.wakeFloor.trans h.wakeFloor
  staging := k.staging.trans h.staging
  stageAddr := k.stageAddr.trans h.stageAddr
  operand := k.operand.trans h.operand
  pendingCommand := k.pendingCommand.trans h.pendingCommand
  lastCommand := k.lastCommand.trans h.lastCommand
  result := k.result.trans h.result
  arbiterMode := k.arbiterMode.trans h.arbiterMode
  lastGrant := k.lastGrant.trans h.lastGrant
  timeBase := k.timeBase.trans h.timeBase
  chanSel := k.chanSel.trans h.chanSel
  configAddr := k.configAddr.trans h.configAddr
  classSel := k.classSel.trans h.classSel
  classAddr := k.classAddr.trans h.classAddr
  pending := k.pending.trans h.pending

/-- A part left alone in a larger set of parts is left alone in a smaller one. -/
theorem Parts.stays {a b : Bool} (h : a → b) (e : b = false) : a = false := by cases a <;> simp_all

theorem Keeps.mono {p q : Parts} {s t : State} (h : Keeps p s t) (w : p.within q) : Keeps q s t where
  chans e := h.chans (Parts.stays w.1 e)
  serial e := h.serial (Parts.stays w.2.1 e)
  lines e := h.lines (Parts.stays w.2.2.1 e)
  slots e := h.slots (Parts.stays w.2.2.2.1 e)
  pool e := h.pool (Parts.stays w.2.2.2.2.1 e)
  outputs e := h.outputs (Parts.stays w.2.2.2.2.2.1 e)
  eventQueue e := h.eventQueue (Parts.stays w.2.2.2.2.2.2.1 e)
  lostMask e := h.lostMask (Parts.stays w.2.2.2.2.2.2.1 e)
  eventSeq e := h.eventSeq (Parts.stays w.2.2.2.2.2.2.1 e)
  intLine e := h.intLine (Parts.stays w.2.2.2.2.2.2.1 e)
  wakeLine e := h.wakeLine (Parts.stays w.2.2.2.2.2.2.1 e)
  grant e := h.grant (Parts.stays w.2.2.2.2.2.2.2.1 e)
  compacting e := h.compacting (Parts.stays w.2.2.2.2.2.2.2.2 e)
  inReset := h.inReset
  dataOut := h.dataOut
  debounce := h.debounce
  lastServed := h.lastServed
  presented := h.presented
  eventLevels := h.eventLevels
  intEnable := h.intEnable
  intFloor := h.intFloor
  wakeFloor := h.wakeFloor
  staging := h.staging
  stageAddr := h.stageAddr
  operand := h.operand
  pendingCommand := h.pendingCommand
  lastCommand := h.lastCommand
  result := h.result
  arbiterMode := h.arbiterMode
  lastGrant := h.lastGrant
  timeBase := h.timeBase
  chanSel := h.chanSel
  configAddr := h.configAddr
  classSel := h.classSel
  classAddr := h.classAddr
  pending := h.pending

theorem Keeps.forEach {α : Type} {p : Parts} {f : State → α → State} (h : ∀ t a, Keeps p t (f t a)) (items : List α)
    (s : State) : Keeps p s (forEach items f s) := by
  induction items generalizing s with
  | nil => exact .refl p s
  | cons a as ih => exact (h s a).trans (ih (f s a))

theorem setChan_keeps (s : State) (k : Channel) (x : Chan) :
    Keeps { chans := true } s (s.setChan k x) := by constructor <;> intros <;> first | rfl | contradiction

theorem setSer_keeps (s : State) (k : SerialChannel) (x : Serial) :
    Keeps { serial := true } s (s.setSer k x) := by constructor <;> intros <;> first | rfl | contradiction

theorem setLine_keeps (s : State) (k : LineNum) (x : Line) :
    Keeps { lines := true } s (s.setLine k x) := by constructor <;> intros <;> first | rfl | contradiction

theorem setSlot_keeps (s : State) (k : PatternNum) (x : Slot) :
    Keeps { slots := true } s (s.setSlot k x) := by constructor <;> intros <;> first | rfl | contradiction

theorem setOutput_keeps (s : State) (k : OutputNum) (x : Output) :
    Keeps { outputs := true } s (s.setOutput k x) := by constructor <;> intros <;> first | rfl | contradiction

theorem modChan_keeps (s : State) (k : Channel) (f : Chan → Chan) :
    Keeps { chans := true } s (s.modChan k f) := by constructor <;> intros <;> first | rfl | contradiction

theorem modSer_keeps (s : State) (k : SerialChannel) (f : Serial → Serial) :
    Keeps { serial := true } s (s.modSer k f) := by constructor <;> intros <;> first | rfl | contradiction

theorem modLine_keeps (s : State) (k : LineNum) (f : Line → Line) :
    Keeps { lines := true } s (s.modLine k f) := by constructor <;> intros <;> first | rfl | contradiction

theorem modOutput_keeps (s : State) (k : OutputNum) (f : Output → Output) :
    Keeps { outputs := true } s (s.modOutput k f) := by constructor <;> intros <;> first | rfl | contradiction

theorem refreshLines_keeps (s : State) :
    Keeps { events := true } s (s.refreshLines) := by constructor <;> intros <;> first | rfl | contradiction

theorem markLost_keeps (s : State) (l : EventLevel) :
    Keeps { events := true } s (s.markLost l) := by constructor <;> intros <;> first | rfl | contradiction

theorem enqueueEvent_keeps (s : State) (e : EventRecord) :
    Keeps { events := true } s (s.enqueueEvent e) := by
  unfold State.enqueueEvent
  split
  · exact by constructor <;> intros <;> first | rfl | contradiction
  · split <;> (constructor <;> intros <;> first | rfl | contradiction)

theorem createEvent_keeps (s : State) (l : EventLevel) (o : Offer) :
    Keeps { events := true } s (s.createEvent l o) := by
  unfold State.createEvent
  refine Keeps.trans ?_ (refreshLines_keeps _)
  refine Keeps.trans ?_ (enqueueEvent_keeps _ _)
  constructor <;> intros <;> first | rfl | contradiction

theorem offer_keeps (s : State) (o : Offer) :
    Keeps { events := true } s (s.offer o) := by
  unfold State.offer
  split
  · exact createEvent_keeps s _ o
  · exact .refl _ s

theorem arbitrate_keeps (s : State) :
    Keeps { grant := true } s (s.arbitrate) := by
  unfold State.arbitrate
  split
  · split <;> (constructor <;> intros <;> first | rfl | contradiction)
  · exact .refl _ s

theorem applyBatch_keeps (s : State) (b : List (OutputNum × ActionMode)) :
    Keeps { outputs := true } s (s.applyBatch b) := by
  exact Keeps.forEach (fun t a => modOutput_keeps t _ _) b s

theorem expirePulse_keeps (s : State) (o : OutputNum) :
    Keeps { outputs := true } s (s.expirePulse o) := by
  unfold State.expirePulse
  split
  · exact modOutput_keeps s _ _
  · exact .refl _ s

theorem writeOutputs_keeps (s : State) (v : Byte) :
    Keeps { outputs := true } s (s.writeOutputs v) := by
  refine Keeps.forEach (fun t a => ?_) allOutputs s
  split
  · exact modOutput_keeps t _ _
  · exact .refl _ t

theorem placeRun_keeps (s : State) (n : PatternNum) (sl : Slot) (a : Nat) (es : List Element) :
    Keeps { slots := true, pool := true } s (s.placeRun n sl a es) := by constructor <;> intros <;> first | rfl | contradiction

theorem moveRun_keeps (s : State) (n : PatternNum) :
    Keeps { slots := true, pool := true } s (s.moveRun n) := by
  unfold State.moveRun
  split
  · exact placeRun_keeps s _ _ _ _
  · exact .refl _ s

theorem keepCandidates_keeps (s : State) (ch : Channel) (keep : Candidate → Bool) :
    Keeps { chans := true } s (s.keepCandidates ch keep) := by
  exact modChan_keeps s _ _

theorem emptyContext_keeps (s : State) (ch : Channel) :
    Keeps { chans := true } s (s.emptyContext ch) := by
  exact modChan_keeps s _ _

theorem takeHead_keeps (s : State) (ch : Channel) :
    Keeps { chans := true } s (s.takeHead ch) := by
  unfold State.takeHead
  split
  · exact modChan_keeps s _ _
  · split <;> exact modChan_keeps s _ _

theorem flushQueue_keeps (s : State) (ch : Channel) :
    Keeps { chans := true } s (s.flushQueue ch) := by
  exact modChan_keeps s _ _

theorem swallow_keeps (s : State) (ch : Channel) (x : Symbol) (b : ArrivalNum) (t : Nat) :
    Keeps { chans := true } s (s.swallow ch x b t) := by
  exact modChan_keeps s _ _

theorem appendRaw_keeps (s : State) (ch : Channel) (k : RawKind) :
    Keeps { chans := true } s (s.appendRaw ch k) := by
  exact modChan_keeps s _ _

theorem injectByte_keeps (s : State) (ch : Channel) (v : Byte) :
    Keeps { chans := true } s (s.injectByte ch v) := by
  unfold State.injectByte
  split
  · exact modChan_keeps s _ _
  · exact (modChan_keeps s _ _).trans (appendRaw_keeps _ _ _)

theorem popRaw_keeps (s : State) (ch : Channel) :
    Keeps { chans := true } s (s.popRaw ch) := by
  exact modChan_keeps s _ _

theorem removeLockouts_keeps (s : State) (n : PatternNum) :
    Keeps { chans := true } s (s.removeLockouts n) := by
  exact Keeps.forEach (fun t a => modChan_keeps t _ _) allChannels s

theorem cancelPattern_keeps (s : State) (n : PatternNum) :
    Keeps { chans := true } s (s.cancelPattern n) := by
  exact Keeps.forEach (fun t a => keepCandidates_keeps t _ _) allChannels s

theorem leaveArmed_keeps (s : State) (n : PatternNum) :
    Keeps { chans := true, slots := true } s (s.leaveArmed n) := by
  unfold State.leaveArmed
  refine Keeps.trans ?_ ((removeLockouts_keeps _ _).mono (by simp [Parts.within]))
  refine Keeps.trans ?_ ((cancelPattern_keeps _ _).mono (by simp [Parts.within]))
  exact (setSlot_keeps s _ _).mono (by simp [Parts.within])

theorem loseSymbol_keeps (s : State) (ch : Channel) (x : Symbol) :
    Keeps { chans := true, events := true } s (s.loseSymbol ch x) := by
  unfold State.loseSymbol
  split
  · exact .refl _ s
  · exact ((modChan_keeps s _ _).mono (by simp [Parts.within])).trans ((offer_keeps _ _).mono (by simp [Parts.within]))

theorem cancelOldestSwallowing_keeps (s : State) (ch : Channel) (t : Time) :
    Keeps { chans := true, events := true } s (s.cancelOldestSwallowing ch t) := by
  unfold State.cancelOldestSwallowing
  split
  · exact ((modChan_keeps s _ _).mono (by simp [Parts.within])).trans ((offer_keeps _ _).mono (by simp [Parts.within]))
  · exact .refl _ s

theorem enforceHold_keeps (s : State) (ch : Channel) (t : Time) (n : Nat) :
    Keeps { chans := true, events := true } s (s.enforceHold ch t n) := by
  induction n generalizing s with
  | zero => exact .refl _ s
  | succ n ih =>
    unfold State.enforceHold
    split
    · exact (cancelOldestSwallowing_keeps s _ _).trans (ih _)
    · exact .refl _ s

theorem appendSymbol_keeps (s : State) (ch : Channel) (x : Symbol) :
    Keeps { chans := true, events := true } s (s.appendSymbol ch x) := by
  exact ((modChan_keeps s _ _).mono (by simp [Parts.within])).trans (enforceHold_keeps _ _ _ _)

theorem storeSymbol_keeps (s : State) (ch : Channel) (x : Symbol) :
    Keeps { chans := true, events := true } s (s.storeSymbol ch x) := by
  unfold State.storeSymbol
  split
  · exact appendSymbol_keeps s _ _
  · exact loseSymbol_keeps s _ _

theorem deliver_keeps (s : State) (ch : Channel) (x : Symbol) :
    Keeps { chans := true, events := true } s (s.deliver ch x) := by
  unfold State.deliver
  split
  · split
    · exact (modChan_keeps s _ _).mono (by simp [Parts.within])
    · exact ((modChan_keeps s _ _).mono (by simp [Parts.within])).trans (storeSymbol_keeps _ _ _)
  · exact storeSymbol_keeps s _ _

theorem arrive_keeps (s : State) (ch : Channel) (k : RawKind) :
    Keeps { chans := true, events := true } s (s.arrive ch k) := by
  unfold State.arrive
  split
  · exact (appendRaw_keeps s _ _).mono (by simp [Parts.within])
  · split
    · exact .refl _ s
    · exact ((modChan_keeps s _ _).mono (by simp [Parts.within])).trans ((offer_keeps _ _).mono (by simp [Parts.within]))

theorem placeSymbol_keeps (s : State) (ch : Channel) (x : Symbol) :
    Keeps { chans := true, events := true, grant := true } s (s.placeSymbol ch x) := by
  unfold State.placeSymbol
  split
  · exact ((modChan_keeps s _ _).mono (by simp [Parts.within])).trans ((arbitrate_keeps _).mono (by simp [Parts.within]))
  · exact (deliver_keeps s _ _).mono (by simp [Parts.within])

theorem makeSymbol_keeps (s : State) (ch : Channel) (x : ArrivalNum → Symbol) :
    Keeps { chans := true, events := true, grant := true } s (s.makeSymbol ch x) := by
  exact ((modChan_keeps s _ _).mono (by simp [Parts.within])).trans (placeSymbol_keeps _ _ _)

theorem discardPrefix_keeps (s : State) (i : SerialChannel) :
    Keeps { serial := true } s (s.discardPrefix i) := by
  exact modSer_keeps s _ _

theorem discardPrefixOf_keeps (s : State) (ch : Channel) :
    Keeps { serial := true } s (s.discardPrefixOf ch) := by
  unfold State.discardPrefixOf
  split
  · exact discardPrefix_keeps s _
  · exact .refl _ s

theorem dropStalePrefix_keeps (s : State) (i : SerialChannel) (t : Time) :
    Keeps { serial := true } s (s.dropStalePrefix i t) := by
  unfold State.dropStalePrefix
  split
  · exact discardPrefix_keeps s _
  · exact .refl _ s

theorem reportLine_keeps (s : State) (n : LineNum) (a : Bool) :
    Keeps { chans := true, events := true } s (s.reportLine n a) := by
  unfold State.reportLine
  split
  · exact .refl _ s
  · exact arrive_keeps s _ _

theorem takeChange_keeps (s : State) (n : LineNum) :
    Keeps { chans := true, lines := true, events := true } s (s.takeChange n) := by
  unfold State.takeChange
  split
  · split
    · exact ((modLine_keeps s _ _).mono (by simp [Parts.within])).trans ((reportLine_keeps _ _ _).mono (by simp [Parts.within]))
    · exact .refl _ s
  · exact .refl _ s

theorem takeDueChanges_keeps (s : State) :
    Keeps { chans := true, lines := true, events := true } s (s.takeDueChanges) := by
  exact Keeps.forEach (fun t a => takeChange_keeps t a) allLines s

theorem settleDue_keeps (s : State) :
    Keeps { chans := true, lines := true, outputs := true, events := true } s (s.settleDue) := by
  exact ((takeDueChanges_keeps s).mono (by simp [Parts.within])).trans
    (Keeps.forEach (fun t a => (expirePulse_keeps t a).mono (by simp [Parts.within])) allOutputs _)

theorem passExpiry_keeps (s : State) (ch : Channel) (t : Time) :
    Keeps { chans := true } s (s.passExpiry ch t) := by
  exact modChan_keeps s _ _

theorem passCandidates_keeps (s : State) (ch : Channel) (x : Symbol) :
    Keeps { chans := true, events := true } s (s.passCandidates ch x) := by
  exact ((modChan_keeps s _ _).mono (by simp [Parts.within])).trans
    (Keeps.forEach (fun t a => (offer_keeps t _).mono (by simp [Parts.within])) _ _)

theorem passSpawning_keeps (s : State) (ch : Channel) (x : Symbol) (w : Spawning) :
    Keeps { chans := true, events := true } s (s.passSpawning ch x w) := by
  unfold State.passSpawning
  dsimp only
  split
  · exact ((modChan_keeps s _ _).mono (by simp [Parts.within])).trans ((offer_keeps _ _).mono (by simp [Parts.within]))
  · exact (modChan_keeps s _ _).mono (by simp [Parts.within])

theorem offerMatch_keeps (s : State) (ch : Channel) (x : Symbol) (d : Completion) :
    Keeps { events := true } s (s.offerMatch ch x d) := by
  unfold State.offerMatch
  split
  · exact createEvent_keeps s _ _
  · exact .refl _ s

theorem disarmOneShot_keeps (s : State) (d : Completion) :
    Keeps { chans := true, slots := true } s (s.disarmOneShot d) := by
  unfold State.disarmOneShot
  split
  · split
    · exact leaveArmed_keeps s _
    · exact .refl _ s
  · exact .refl _ s

theorem passCompletions_keeps (s : State) (ch : Channel) (x : Symbol) (done : List Completion) :
    Keeps { chans := true, slots := true, outputs := true, events := true } s (s.passCompletions ch x done) := by
  have h : Keeps { chans := true, slots := true, outputs := true, events := true } s
      (forEach done State.disarmOneShot ((forEach done (fun t d => t.offerMatch ch x d) s).applyBatch
        (done.filterMap s.actionOf?))) :=
    ((Keeps.forEach (fun t d => (offerMatch_keeps t _ _ _).mono (by simp [Parts.within])) done s).trans
      ((applyBatch_keeps _ _).mono (by simp [Parts.within]))).trans
      (Keeps.forEach (fun t d => (disarmOneShot_keeps t _).mono (by simp [Parts.within])) done _)
  unfold State.passCompletions
  dsimp only
  split
  · exact h.trans ((modChan_keeps _ _ _).mono (by simp [Parts.within]))
  · exact h

theorem handOn_keeps (s : State) (ch : Channel) (x : Symbol) (d : Disposition) :
    Keeps { chans := true, events := true } s (s.handOn ch x d) := by
  unfold State.handOn
  split
  · exact (swallow_keeps s _ _ _ _).mono (by simp [Parts.within])
  · exact deliver_keeps s _ _
  · exact deliver_keeps s _ _

theorem passPhases_keeps (s : State) (ch : Channel) (x : Symbol) :
    Keeps { chans := true, slots := true, outputs := true, events := true } s (s.passPhases ch x) := by
  unfold State.passPhases
  dsimp only
  exact (((((passCandidates_keeps s _ _).mono (by simp [Parts.within])).trans ((passSpawning_keeps _ _ _ _).mono (by simp [Parts.within]))).trans
    (passCompletions_keeps _ _ _ _)).trans ((handOn_keeps _ _ _ _).mono (by simp [Parts.within])))

theorem runPass_keeps (s : State) (ch : Channel) (x : Symbol) :
    Keeps { chans := true, slots := true, outputs := true, events := true } s (s.runPass ch x) := by
  unfold State.runPass
  dsimp only
  split
  · exact (((passExpiry_keeps s _ _).mono (by simp [Parts.within])).trans ((keepCandidates_keeps _ _ _).mono (by simp [Parts.within]))).trans ((deliver_keeps _ _ _).mono (by simp [Parts.within]))
  · exact ((passExpiry_keeps s _ _).mono (by simp [Parts.within])).trans (passPhases_keeps _ _ _)

theorem endCompaction_keeps (s : State) :
    Keeps { events := true, compacting := true } s (s.endCompaction) := by
  refine Keeps.trans ?_ ((offer_keeps _ _).mono (by simp [Parts.within]))
  constructor <;> intros <;> first | rfl | contradiction

theorem compactionMove_keeps (s : State) (n : PatternNum) :
    Keeps { slots := true, pool := true, events := true, compacting := true } s (s.compactionMove n) := by
  unfold State.compactionMove
  split
  · exact ((moveRun_keeps s _).mono (by simp [Parts.within])).trans ((endCompaction_keeps _).mono (by simp [Parts.within]))
  · exact (moveRun_keeps s _).mono (by simp [Parts.within])

theorem endFrame_keeps (s : State) (i : SerialChannel) (f : Frame) :
    Keeps { chans := true, serial := true, events := true } s (s.endFrame i f) := by
  exact ((modSer_keeps s _ _).mono (by simp [Parts.within])).trans ((arrive_keeps _ _ _).mono (by simp [Parts.within]))

theorem changeRawLevel_keeps (s : State) (n : LineNum) (l : LineLevel) :
    Keeps { chans := true, lines := true, events := true } s (s.changeRawLevel n l) := by
  unfold State.changeRawLevel
  split
  · exact (modLine_keeps s _ _).mono (by simp [Parts.within])
  · dsimp only
    split
    · exact ((modLine_keeps s _ _).mono (by simp [Parts.within])).trans (takeChange_keeps _ _)
    · exact (modLine_keeps s _ _).mono (by simp [Parts.within])

theorem afterByteTake_keeps (s : State) (i : SerialChannel) (t : Time) :
    Keeps { chans := true, serial := true } s (s.afterByteTake i t) := by
  exact ((popRaw_keeps s _).mono (by simp [Parts.within])).trans ((dropStalePrefix_keeps _ _ _).mono (by simp [Parts.within]))

theorem leadWith_keeps (s : State) (i : SerialChannel) (e : Extension) (t : Time) :
    Keeps { serial := true } s (s.leadWith i e t) := by
  exact modSer_keeps s _ _

theorem modeOff_keeps (s : State) (ch : Channel) :
    Keeps { chans := true, serial := true } s (s.modeOff ch) := by
  unfold State.modeOff
  dsimp only
  refine Keeps.trans ?_ ((emptyContext_keeps _ _).mono (by simp [Parts.within]))
  refine Keeps.trans ?_ ((modChan_keeps _ _ _).mono (by simp [Parts.within]))
  split
  · exact (modSer_keeps s _ _).mono (by simp [Parts.within])
  · exact .refl _ s

theorem modeLeaveOff_keeps (s : State) (ch : Channel) (m : Mode) :
    Keeps { chans := true, serial := true } s (s.modeLeaveOff ch m) := by
  unfold State.modeLeaveOff
  dsimp only
  refine Keeps.trans ?_ ((modChan_keeps _ _ _).mono (by simp [Parts.within]))
  split
  · exact (modSer_keeps s _ _).mono (by simp [Parts.within])
  · exact .refl _ s

theorem modeMatchToBypass_keeps (s : State) (ch : Channel) :
    Keeps { chans := true, events := true } s (s.modeMatchToBypass ch) := by
  unfold State.modeMatchToBypass
  dsimp only
  have h : Keeps { chans := true, events := true } s
      ((s.modChan ch fun c => { c with mode := .bypass, ready := none }).emptyContext ch) :=
    ((modChan_keeps s _ _).mono (by simp [Parts.within])).trans ((emptyContext_keeps _ _).mono (by simp [Parts.within]))
  split
  · exact h.trans ((deliver_keeps _ _ _).mono (by simp [Parts.within]))
  · exact h

theorem modeBypassToMatch_keeps (s : State) (ch : Channel) :
    Keeps { chans := true } s (s.modeBypassToMatch ch) := by
  exact modChan_keeps s _ _

theorem changeMode_keeps (s : State) (ch : Channel) (m : Mode) :
    Keeps { chans := true, serial := true, events := true } s (s.changeMode ch m) := by
  unfold State.changeMode
  split
  · exact .refl _ s
  · exact (modeLeaveOff_keeps s _ _).mono (by simp [Parts.within])
  · exact (modeLeaveOff_keeps s _ _).mono (by simp [Parts.within])
  · exact (modeOff_keeps s _).mono (by simp [Parts.within])
  · exact .refl _ s
  · exact (modeBypassToMatch_keeps s _).mono (by simp [Parts.within])
  · exact (modeOff_keeps s _).mono (by simp [Parts.within])
  · exact (modeMatchToBypass_keeps s _).mono (by simp [Parts.within])
  · exact .refl _ s

theorem writeMode_keeps (s : State) (ch : Channel) (v : Byte) :
    Keeps { chans := true, serial := true, events := true } s (s.writeMode ch v) := by
  unfold State.writeMode
  split
  · exact changeMode_keeps s _ _
  · exact .refl _ s

theorem writeLineSettings_keeps (s : State) (i : SerialChannel) (v : Byte) :
    Keeps { serial := true } s (s.writeLineSettings i v) := by
  unfold State.writeLineSettings
  split
  · split
    · exact .refl _ s
    · exact modSer_keeps s _ _
  · exact .refl _ s

theorem writePrefixWindow_keeps (s : State) (i : SerialChannel) (v : Byte) :
    Keeps { serial := true } s (s.writePrefixWindow i v) := by
  exact modSer_keeps s _ _

theorem writeHoldLimit_keeps (s : State) (ch : Channel) (v : Byte) :
    Keeps { chans := true, events := true } s (s.writeHoldLimit ch v) := by
  unfold State.writeHoldLimit
  split
  · exact ((modChan_keeps s _ _).mono (by simp [Parts.within])).trans (enforceHold_keeps _ _ _ _)
  · exact .refl _ s

theorem writeTailWindow_keeps (s : State) (ch : Channel) (v : Byte) :
    Keeps { chans := true } s (s.writeTailWindow ch v) := by
  exact modChan_keeps s _ _

theorem writeLinesEnable_keeps (s : State) (v : Byte) :
    Keeps { lines := true } s (s.writeLinesEnable v) := by
  exact Keeps.forEach (fun t a => modLine_keeps t _ _) allLines s

theorem setPolarity_keeps (s : State) (n : LineNum) (a : Bool) :
    Keeps { chans := true, lines := true, events := true } s (s.setPolarity n a) := by
  unfold State.setPolarity
  split
  · exact .refl _ s
  · dsimp only
    split
    · exact ((modLine_keeps s _ _).mono (by simp [Parts.within])).trans ((reportLine_keeps _ _ _).mono (by simp [Parts.within]))
    · exact (modLine_keeps s _ _).mono (by simp [Parts.within])

theorem writeLinesPolarity_keeps (s : State) (v : Byte) :
    Keeps { chans := true, lines := true, events := true } s (s.writeLinesPolarity v) := by
  exact Keeps.forEach (fun t a => setPolarity_keeps t _ _) allLines s

theorem writePulseWidth_keeps (s : State) (o : OutputNum) (v : Byte) :
    Keeps { outputs := true } s (s.writePulseWidth o v) := by
  unfold State.writePulseWidth
  split
  · exact .refl _ s
  · exact modOutput_keeps s _ _

theorem setClass_keeps (s : State) (i : SerialChannel) (v : Byte) (c : ByteClass) :
    Keeps { serial := true } s (s.setClass i v c) := by
  exact modSer_keeps s _ _

end Sys2Proof.Machine
end

