-- ==== Sys2Proof/Laws/Updates.lean ====
section
/-! SUPPORT. Updates of numbered pieces: writing twice, writing what is there, writes of different pieces in either
order, and a change of every channel, serial part, line or output at once. -/

namespace Sys2Proof.Machine

variable (s : State)

/-! ## Writing twice, and writing what is there -/

@[simp] theorem setChan_setChan (k : Channel) (x y : Chan) : (s.setChan k x).setChan k y = s.setChan k y := by
  simp [State.setChan]
@[simp] theorem setSer_setSer (k : SerialChannel) (x y : Serial) : (s.setSer k x).setSer k y = s.setSer k y := by
  simp [State.setSer]
@[simp] theorem setLine_setLine (k : LineNum) (x y : Line) : (s.setLine k x).setLine k y = s.setLine k y := by
  simp [State.setLine]
@[simp] theorem setSlot_setSlot (k : PatternNum) (x y : Slot) : (s.setSlot k x).setSlot k y = s.setSlot k y := by
  simp [State.setSlot]
@[simp] theorem setOutput_setOutput (k : OutputNum) (x y : Output) :
    (s.setOutput k x).setOutput k y = s.setOutput k y := by
  simp [State.setOutput]

@[simp] theorem setChan_self (k : Channel) : s.setChan k (s.chan k) = s := by simp [State.setChan, State.chan]
@[simp] theorem setSer_self (k : SerialChannel) : s.setSer k (s.ser k) = s := by simp [State.setSer, State.ser]
@[simp] theorem setLine_self (k : LineNum) : s.setLine k (s.line k) = s := by simp [State.setLine, State.line]
@[simp] theorem setSlot_self (k : PatternNum) : s.setSlot k (s.slot k) = s := by simp [State.setSlot, State.slot]
@[simp] theorem setOutput_self (k : OutputNum) : s.setOutput k (s.output k) = s := by
  simp [State.setOutput, State.output]

theorem modChan_eq_self {k : Channel} {f : Chan → Chan} (h : f (s.chan k) = s.chan k) : s.modChan k f = s := by
  simp [State.modChan, h]
theorem modSer_eq_self {k : SerialChannel} {f : Serial → Serial} (h : f (s.ser k) = s.ser k) : s.modSer k f = s := by
  simp [State.modSer, h]
theorem modLine_eq_self {k : LineNum} {f : Line → Line} (h : f (s.line k) = s.line k) : s.modLine k f = s := by
  simp [State.modLine, h]
theorem modOutput_eq_self {k : OutputNum} {f : Output → Output} (h : f (s.output k) = s.output k) :
    s.modOutput k f = s := by
  simp [State.modOutput, h]

theorem modChan_modChan (k : Channel) (f g : Chan → Chan) :
    (s.modChan k f).modChan k g = s.modChan k fun c => g (f c) := by
  simp [State.modChan]

/-! ## Writes of different pieces -/

theorem setChan_setSer (k : Channel) (x : Chan) (i : SerialChannel) (y : Serial) :
    (s.setSer i y).setChan k x = (s.setChan k x).setSer i y := rfl

/-- Two states with the same pieces by number, and the same other fields, are equal channel by channel. -/
theorem chans_ext {s t : State} (h : ∀ k, s.chan k = t.chan k) : s.chans = t.chans := by
  ext1 i hi
  exact h ⟨i, hi⟩
theorem serial_ext {s t : State} (h : ∀ k, s.ser k = t.ser k) : s.serial = t.serial := by
  ext1 i hi
  exact h ⟨i, hi⟩
theorem lines_ext {s t : State} (h : ∀ k, s.line k = t.line k) : s.lines = t.lines := by
  ext1 i hi
  exact h ⟨i, hi⟩
theorem slots_ext {s t : State} (h : ∀ k, s.slot k = t.slot k) : s.slots = t.slots := by
  ext1 i hi
  exact h ⟨i, hi⟩
theorem outputs_ext {s t : State} (h : ∀ k, s.output k = t.output k) : s.outputs = t.outputs := by
  ext1 i hi
  exact h ⟨i, hi⟩

/-! ## A change of every numbered piece -/

theorem forEach_modChan (f : Channel → Chan → Chan) :
    forEach allChannels (fun t k => t.modChan k (f k)) s = { s with chans := Vector.ofFn fun k => f k (s.chan k) } := by
  simp only [forEach, allChannels, List.foldl, State.modChan, State.setChan, State.chan]
  congr 1
  ext1 i hi
  have : i = 0 ∨ i = 1 ∨ i = 2 ∨ i = 3 := by omega
  rcases this with rfl | rfl | rfl | rfl <;> simp

theorem forEach_modSer (f : SerialChannel → Serial → Serial) :
    forEach [0, 1, 2] (fun t k => t.modSer k (f k)) s = { s with serial := Vector.ofFn fun k => f k (s.ser k) } := by
  simp only [forEach, List.foldl, State.modSer, State.setSer, State.ser]
  congr 1
  ext1 i hi
  have : i = 0 ∨ i = 1 ∨ i = 2 := by omega
  rcases this with rfl | rfl | rfl <;> simp

theorem forEach_modLine (f : LineNum → Line → Line) :
    forEach allLines (fun t k => t.modLine k (f k)) s = { s with lines := Vector.ofFn fun k => f k (s.line k) } := by
  simp only [forEach, allLines, List.foldl, State.modLine, State.setLine, State.line]
  congr 1
  ext1 i hi
  have : i = 0 ∨ i = 1 ∨ i = 2 ∨ i = 3 ∨ i = 4 ∨ i = 5 ∨ i = 6 ∨ i = 7 := by omega
  rcases this with rfl | rfl | rfl | rfl | rfl | rfl | rfl | rfl <;> simp

theorem forEach_modOutput (f : OutputNum → Output → Output) :
    forEach allOutputs (fun t k => t.modOutput k (f k)) s =
      { s with outputs := Vector.ofFn fun k => f k (s.output k) } := by
  simp only [forEach, allOutputs, List.foldl, State.modOutput, State.setOutput, State.output]
  congr 1
  ext1 i hi
  have : i = 0 ∨ i = 1 ∨ i = 2 ∨ i = 3 := by omega
  rcases this with rfl | rfl | rfl | rfl <;> simp

@[simp] theorem chan_mk_ofFn (f : Channel → Chan) (k : Channel) :
    ({ s with chans := Vector.ofFn f } : State).chan k = f k := by
  simp [State.chan]

/-! ## Loops -/

/-- What each round of a loop keeps, the loop keeps. -/
theorem forEach_invariant {α : Type} {P : State → Prop} {f : State → α → State} (items : List α)
    (h : ∀ t, ∀ a ∈ items, P t → P (f t a)) (s : State) (hs : P s) : P (forEach items f s) := by
  induction items generalizing s with
  | nil => exact hs
  | cons a as ih =>
    exact ih (fun t b hb => h t b (List.mem_cons_of_mem a hb)) (f s a) (h s a List.mem_cons_self hs)

end Sys2Proof.Machine
end

