-- ==== Sys2Proof/Laws/Arbiter.lean ====
section
/-! SUPPORT. Who claims the pattern memory, and what the arbiter then decides (section 9.3). -/

namespace Sys2Proof.Machine

theorem isReady_iff (s : State) (ch : Channel) : s.isReady ch = true ↔ ReadyChannel s ch := by
  unfold State.isReady ReadyChannel
  cases (s.chan ch).mode <;> cases (s.chan ch).ready <;> simp

theorem matchClaims_iff (s : State) : s.matchClaims = true ↔ MatchWaits s := by
  unfold State.matchClaims MatchWaits
  simp only [allChannels, List.any_eq_true, isReady_iff]
  constructor
  · rintro ⟨c, _, h⟩; exact ⟨c, h⟩
  · rintro ⟨c, h⟩; exact ⟨c, by fin_cases c <;> simp, h⟩

theorem tableClaims_iff (s : State) : s.tableClaims = true ↔ TableWaits s := by
  unfold State.tableClaims TableWaits
  cases s.pendingCommand <;> cases s.compacting <;> simp

theorem arbitrate_decided {s : State} {c : Claimant} (hg : s.grant = .free) (hd : s.decision = some c) :
    s.arbitrate = { s with grant := .decided c } := by
  unfold State.arbitrate; rw [hg]; dsimp only; rw [hd]

theorem arbitrate_none {s : State} (hg : s.grant = .free) (hd : s.decision = none) :
    s.arbitrate = s := by
  unfold State.arbitrate; rw [hg]; dsimp only; rw [hd]

theorem matchWaits_congr {s t : State} (h : s.chans = t.chans) : MatchWaits s ↔ MatchWaits t := by
  simp only [MatchWaits, ReadyChannel, State.chan, h]

end Sys2Proof.Machine
end

