-- ==== Sys2Proof/Laws/Fields.lean ====
section
/-! SUPPORT. Field by field, what each shared operation leaves alone: each lemma is one field of the operation's
`_keeps` lemma. -/

namespace Sys2Proof.Machine

variable (s : State)

/-! ## enqueueEvent -/

@[simp] theorem enqueueEvent_inReset (e : EventRecord) : (s.enqueueEvent e).inReset = s.inReset := (enqueueEvent_keeps s e).inReset
@[simp] theorem enqueueEvent_serial (e : EventRecord) : (s.enqueueEvent e).serial = s.serial := (enqueueEvent_keeps s e).serial rfl
@[simp] theorem enqueueEvent_lines (e : EventRecord) : (s.enqueueEvent e).lines = s.lines := (enqueueEvent_keeps s e).lines rfl
@[simp] theorem enqueueEvent_debounce (e : EventRecord) : (s.enqueueEvent e).debounce = s.debounce := (enqueueEvent_keeps s e).debounce
@[simp] theorem enqueueEvent_chans (e : EventRecord) : (s.enqueueEvent e).chans = s.chans := (enqueueEvent_keeps s e).chans rfl
@[simp] theorem enqueueEvent_slots (e : EventRecord) : (s.enqueueEvent e).slots = s.slots := (enqueueEvent_keeps s e).slots rfl
@[simp] theorem enqueueEvent_pool (e : EventRecord) : (s.enqueueEvent e).pool = s.pool := (enqueueEvent_keeps s e).pool rfl
@[simp] theorem enqueueEvent_lastServed (e : EventRecord) : (s.enqueueEvent e).lastServed = s.lastServed := (enqueueEvent_keeps s e).lastServed
@[simp] theorem enqueueEvent_eventLevels (e : EventRecord) : (s.enqueueEvent e).eventLevels = s.eventLevels := (enqueueEvent_keeps s e).eventLevels
@[simp] theorem enqueueEvent_outputs (e : EventRecord) : (s.enqueueEvent e).outputs = s.outputs := (enqueueEvent_keeps s e).outputs rfl
@[simp] theorem enqueueEvent_staging (e : EventRecord) : (s.enqueueEvent e).staging = s.staging := (enqueueEvent_keeps s e).staging
@[simp] theorem enqueueEvent_operand (e : EventRecord) : (s.enqueueEvent e).operand = s.operand := (enqueueEvent_keeps s e).operand
@[simp] theorem enqueueEvent_pendingCommand (e : EventRecord) : (s.enqueueEvent e).pendingCommand = s.pendingCommand := (enqueueEvent_keeps s e).pendingCommand
@[simp] theorem enqueueEvent_compacting (e : EventRecord) : (s.enqueueEvent e).compacting = s.compacting := (enqueueEvent_keeps s e).compacting rfl
@[simp] theorem enqueueEvent_arbiterMode (e : EventRecord) : (s.enqueueEvent e).arbiterMode = s.arbiterMode := (enqueueEvent_keeps s e).arbiterMode
@[simp] theorem enqueueEvent_grant (e : EventRecord) : (s.enqueueEvent e).grant = s.grant := (enqueueEvent_keeps s e).grant rfl
@[simp] theorem enqueueEvent_timeBase (e : EventRecord) : (s.enqueueEvent e).timeBase = s.timeBase := (enqueueEvent_keeps s e).timeBase
@[simp] theorem enqueueEvent_chanSel (e : EventRecord) : (s.enqueueEvent e).chanSel = s.chanSel := (enqueueEvent_keeps s e).chanSel
@[simp] theorem enqueueEvent_configAddr (e : EventRecord) : (s.enqueueEvent e).configAddr = s.configAddr := (enqueueEvent_keeps s e).configAddr
@[simp] theorem enqueueEvent_pending (e : EventRecord) : (s.enqueueEvent e).pending = s.pending := (enqueueEvent_keeps s e).pending
@[simp] theorem chan_enqueueEvent (e : EventRecord) (j : Channel) : (s.enqueueEvent e).chan j = s.chan j := by simp [State.chan]
@[simp] theorem ser_enqueueEvent (e : EventRecord) (j : SerialChannel) : (s.enqueueEvent e).ser j = s.ser j := by simp [State.ser]
@[simp] theorem line_enqueueEvent (e : EventRecord) (j : LineNum) : (s.enqueueEvent e).line j = s.line j := by simp [State.line]
@[simp] theorem slot_enqueueEvent (e : EventRecord) (j : PatternNum) : (s.enqueueEvent e).slot j = s.slot j := by simp [State.slot]
@[simp] theorem output_enqueueEvent (e : EventRecord) (j : OutputNum) : (s.enqueueEvent e).output j = s.output j := by simp [State.output]

/-! ## createEvent -/

@[simp] theorem createEvent_inReset (l : EventLevel) (o : Offer) : (s.createEvent l o).inReset = s.inReset := (createEvent_keeps s l o).inReset
@[simp] theorem createEvent_serial (l : EventLevel) (o : Offer) : (s.createEvent l o).serial = s.serial := (createEvent_keeps s l o).serial rfl
@[simp] theorem createEvent_lines (l : EventLevel) (o : Offer) : (s.createEvent l o).lines = s.lines := (createEvent_keeps s l o).lines rfl
@[simp] theorem createEvent_debounce (l : EventLevel) (o : Offer) : (s.createEvent l o).debounce = s.debounce := (createEvent_keeps s l o).debounce
@[simp] theorem createEvent_chans (l : EventLevel) (o : Offer) : (s.createEvent l o).chans = s.chans := (createEvent_keeps s l o).chans rfl
@[simp] theorem createEvent_slots (l : EventLevel) (o : Offer) : (s.createEvent l o).slots = s.slots := (createEvent_keeps s l o).slots rfl
@[simp] theorem createEvent_pool (l : EventLevel) (o : Offer) : (s.createEvent l o).pool = s.pool := (createEvent_keeps s l o).pool rfl
@[simp] theorem createEvent_lastServed (l : EventLevel) (o : Offer) : (s.createEvent l o).lastServed = s.lastServed := (createEvent_keeps s l o).lastServed
@[simp] theorem createEvent_eventLevels (l : EventLevel) (o : Offer) : (s.createEvent l o).eventLevels = s.eventLevels := (createEvent_keeps s l o).eventLevels
@[simp] theorem createEvent_outputs (l : EventLevel) (o : Offer) : (s.createEvent l o).outputs = s.outputs := (createEvent_keeps s l o).outputs rfl
@[simp] theorem createEvent_staging (l : EventLevel) (o : Offer) : (s.createEvent l o).staging = s.staging := (createEvent_keeps s l o).staging
@[simp] theorem createEvent_operand (l : EventLevel) (o : Offer) : (s.createEvent l o).operand = s.operand := (createEvent_keeps s l o).operand
@[simp] theorem createEvent_pendingCommand (l : EventLevel) (o : Offer) : (s.createEvent l o).pendingCommand = s.pendingCommand := (createEvent_keeps s l o).pendingCommand
@[simp] theorem createEvent_compacting (l : EventLevel) (o : Offer) : (s.createEvent l o).compacting = s.compacting := (createEvent_keeps s l o).compacting rfl
@[simp] theorem createEvent_arbiterMode (l : EventLevel) (o : Offer) : (s.createEvent l o).arbiterMode = s.arbiterMode := (createEvent_keeps s l o).arbiterMode
@[simp] theorem createEvent_grant (l : EventLevel) (o : Offer) : (s.createEvent l o).grant = s.grant := (createEvent_keeps s l o).grant rfl
@[simp] theorem createEvent_timeBase (l : EventLevel) (o : Offer) : (s.createEvent l o).timeBase = s.timeBase := (createEvent_keeps s l o).timeBase
@[simp] theorem createEvent_chanSel (l : EventLevel) (o : Offer) : (s.createEvent l o).chanSel = s.chanSel := (createEvent_keeps s l o).chanSel
@[simp] theorem createEvent_configAddr (l : EventLevel) (o : Offer) : (s.createEvent l o).configAddr = s.configAddr := (createEvent_keeps s l o).configAddr
@[simp] theorem createEvent_pending (l : EventLevel) (o : Offer) : (s.createEvent l o).pending = s.pending := (createEvent_keeps s l o).pending
@[simp] theorem chan_createEvent (l : EventLevel) (o : Offer) (j : Channel) : (s.createEvent l o).chan j = s.chan j := by simp [State.chan]
@[simp] theorem ser_createEvent (l : EventLevel) (o : Offer) (j : SerialChannel) : (s.createEvent l o).ser j = s.ser j := by simp [State.ser]
@[simp] theorem line_createEvent (l : EventLevel) (o : Offer) (j : LineNum) : (s.createEvent l o).line j = s.line j := by simp [State.line]
@[simp] theorem slot_createEvent (l : EventLevel) (o : Offer) (j : PatternNum) : (s.createEvent l o).slot j = s.slot j := by simp [State.slot]
@[simp] theorem output_createEvent (l : EventLevel) (o : Offer) (j : OutputNum) : (s.createEvent l o).output j = s.output j := by simp [State.output]

/-! ## offer -/

@[simp] theorem offer_inReset (o : Offer) : (s.offer o).inReset = s.inReset := (offer_keeps s o).inReset
@[simp] theorem offer_serial (o : Offer) : (s.offer o).serial = s.serial := (offer_keeps s o).serial rfl
@[simp] theorem offer_lines (o : Offer) : (s.offer o).lines = s.lines := (offer_keeps s o).lines rfl
@[simp] theorem offer_debounce (o : Offer) : (s.offer o).debounce = s.debounce := (offer_keeps s o).debounce
@[simp] theorem offer_chans (o : Offer) : (s.offer o).chans = s.chans := (offer_keeps s o).chans rfl
@[simp] theorem offer_slots (o : Offer) : (s.offer o).slots = s.slots := (offer_keeps s o).slots rfl
@[simp] theorem offer_pool (o : Offer) : (s.offer o).pool = s.pool := (offer_keeps s o).pool rfl
@[simp] theorem offer_lastServed (o : Offer) : (s.offer o).lastServed = s.lastServed := (offer_keeps s o).lastServed
@[simp] theorem offer_eventLevels (o : Offer) : (s.offer o).eventLevels = s.eventLevels := (offer_keeps s o).eventLevels
@[simp] theorem offer_outputs (o : Offer) : (s.offer o).outputs = s.outputs := (offer_keeps s o).outputs rfl
@[simp] theorem offer_staging (o : Offer) : (s.offer o).staging = s.staging := (offer_keeps s o).staging
@[simp] theorem offer_operand (o : Offer) : (s.offer o).operand = s.operand := (offer_keeps s o).operand
@[simp] theorem offer_pendingCommand (o : Offer) : (s.offer o).pendingCommand = s.pendingCommand := (offer_keeps s o).pendingCommand
@[simp] theorem offer_compacting (o : Offer) : (s.offer o).compacting = s.compacting := (offer_keeps s o).compacting rfl
@[simp] theorem offer_arbiterMode (o : Offer) : (s.offer o).arbiterMode = s.arbiterMode := (offer_keeps s o).arbiterMode
@[simp] theorem offer_grant (o : Offer) : (s.offer o).grant = s.grant := (offer_keeps s o).grant rfl
@[simp] theorem offer_timeBase (o : Offer) : (s.offer o).timeBase = s.timeBase := (offer_keeps s o).timeBase
@[simp] theorem offer_chanSel (o : Offer) : (s.offer o).chanSel = s.chanSel := (offer_keeps s o).chanSel
@[simp] theorem offer_configAddr (o : Offer) : (s.offer o).configAddr = s.configAddr := (offer_keeps s o).configAddr
@[simp] theorem offer_pending (o : Offer) : (s.offer o).pending = s.pending := (offer_keeps s o).pending
@[simp] theorem chan_offer (o : Offer) (j : Channel) : (s.offer o).chan j = s.chan j := by simp [State.chan]
@[simp] theorem ser_offer (o : Offer) (j : SerialChannel) : (s.offer o).ser j = s.ser j := by simp [State.ser]
@[simp] theorem line_offer (o : Offer) (j : LineNum) : (s.offer o).line j = s.line j := by simp [State.line]
@[simp] theorem slot_offer (o : Offer) (j : PatternNum) : (s.offer o).slot j = s.slot j := by simp [State.slot]
@[simp] theorem output_offer (o : Offer) (j : OutputNum) : (s.offer o).output j = s.output j := by simp [State.output]

/-! ## arbitrate -/

@[simp] theorem arbitrate_inReset : (s.arbitrate).inReset = s.inReset := (arbitrate_keeps s).inReset
@[simp] theorem arbitrate_serial : (s.arbitrate).serial = s.serial := (arbitrate_keeps s).serial rfl
@[simp] theorem arbitrate_lines : (s.arbitrate).lines = s.lines := (arbitrate_keeps s).lines rfl
@[simp] theorem arbitrate_debounce : (s.arbitrate).debounce = s.debounce := (arbitrate_keeps s).debounce
@[simp] theorem arbitrate_chans : (s.arbitrate).chans = s.chans := (arbitrate_keeps s).chans rfl
@[simp] theorem arbitrate_slots : (s.arbitrate).slots = s.slots := (arbitrate_keeps s).slots rfl
@[simp] theorem arbitrate_pool : (s.arbitrate).pool = s.pool := (arbitrate_keeps s).pool rfl
@[simp] theorem arbitrate_lastServed : (s.arbitrate).lastServed = s.lastServed := (arbitrate_keeps s).lastServed
@[simp] theorem arbitrate_eventQueue : (s.arbitrate).eventQueue = s.eventQueue := (arbitrate_keeps s).eventQueue rfl
@[simp] theorem arbitrate_eventLevels : (s.arbitrate).eventLevels = s.eventLevels := (arbitrate_keeps s).eventLevels
@[simp] theorem arbitrate_outputs : (s.arbitrate).outputs = s.outputs := (arbitrate_keeps s).outputs rfl
@[simp] theorem arbitrate_staging : (s.arbitrate).staging = s.staging := (arbitrate_keeps s).staging
@[simp] theorem arbitrate_operand : (s.arbitrate).operand = s.operand := (arbitrate_keeps s).operand
@[simp] theorem arbitrate_pendingCommand : (s.arbitrate).pendingCommand = s.pendingCommand := (arbitrate_keeps s).pendingCommand
@[simp] theorem arbitrate_compacting : (s.arbitrate).compacting = s.compacting := (arbitrate_keeps s).compacting rfl
@[simp] theorem arbitrate_arbiterMode : (s.arbitrate).arbiterMode = s.arbiterMode := (arbitrate_keeps s).arbiterMode
@[simp] theorem arbitrate_timeBase : (s.arbitrate).timeBase = s.timeBase := (arbitrate_keeps s).timeBase
@[simp] theorem arbitrate_chanSel : (s.arbitrate).chanSel = s.chanSel := (arbitrate_keeps s).chanSel
@[simp] theorem arbitrate_configAddr : (s.arbitrate).configAddr = s.configAddr := (arbitrate_keeps s).configAddr
@[simp] theorem arbitrate_pending : (s.arbitrate).pending = s.pending := (arbitrate_keeps s).pending
@[simp] theorem chan_arbitrate (j : Channel) : (s.arbitrate).chan j = s.chan j := by simp [State.chan]
@[simp] theorem ser_arbitrate (j : SerialChannel) : (s.arbitrate).ser j = s.ser j := by simp [State.ser]
@[simp] theorem line_arbitrate (j : LineNum) : (s.arbitrate).line j = s.line j := by simp [State.line]
@[simp] theorem slot_arbitrate (j : PatternNum) : (s.arbitrate).slot j = s.slot j := by simp [State.slot]
@[simp] theorem output_arbitrate (j : OutputNum) : (s.arbitrate).output j = s.output j := by simp [State.output]

/-! ## applyBatch -/

@[simp] theorem applyBatch_inReset (b : List (OutputNum × ActionMode)) : (s.applyBatch b).inReset = s.inReset := (applyBatch_keeps s b).inReset
@[simp] theorem applyBatch_serial (b : List (OutputNum × ActionMode)) : (s.applyBatch b).serial = s.serial := (applyBatch_keeps s b).serial rfl
@[simp] theorem applyBatch_lines (b : List (OutputNum × ActionMode)) : (s.applyBatch b).lines = s.lines := (applyBatch_keeps s b).lines rfl
@[simp] theorem applyBatch_debounce (b : List (OutputNum × ActionMode)) : (s.applyBatch b).debounce = s.debounce := (applyBatch_keeps s b).debounce
@[simp] theorem applyBatch_chans (b : List (OutputNum × ActionMode)) : (s.applyBatch b).chans = s.chans := (applyBatch_keeps s b).chans rfl
@[simp] theorem applyBatch_slots (b : List (OutputNum × ActionMode)) : (s.applyBatch b).slots = s.slots := (applyBatch_keeps s b).slots rfl
@[simp] theorem applyBatch_pool (b : List (OutputNum × ActionMode)) : (s.applyBatch b).pool = s.pool := (applyBatch_keeps s b).pool rfl
@[simp] theorem applyBatch_lastServed (b : List (OutputNum × ActionMode)) : (s.applyBatch b).lastServed = s.lastServed := (applyBatch_keeps s b).lastServed
@[simp] theorem applyBatch_eventQueue (b : List (OutputNum × ActionMode)) : (s.applyBatch b).eventQueue = s.eventQueue := (applyBatch_keeps s b).eventQueue rfl
@[simp] theorem applyBatch_eventLevels (b : List (OutputNum × ActionMode)) : (s.applyBatch b).eventLevels = s.eventLevels := (applyBatch_keeps s b).eventLevels
@[simp] theorem applyBatch_staging (b : List (OutputNum × ActionMode)) : (s.applyBatch b).staging = s.staging := (applyBatch_keeps s b).staging
@[simp] theorem applyBatch_operand (b : List (OutputNum × ActionMode)) : (s.applyBatch b).operand = s.operand := (applyBatch_keeps s b).operand
@[simp] theorem applyBatch_pendingCommand (b : List (OutputNum × ActionMode)) : (s.applyBatch b).pendingCommand = s.pendingCommand := (applyBatch_keeps s b).pendingCommand
@[simp] theorem applyBatch_compacting (b : List (OutputNum × ActionMode)) : (s.applyBatch b).compacting = s.compacting := (applyBatch_keeps s b).compacting rfl
@[simp] theorem applyBatch_arbiterMode (b : List (OutputNum × ActionMode)) : (s.applyBatch b).arbiterMode = s.arbiterMode := (applyBatch_keeps s b).arbiterMode
@[simp] theorem applyBatch_grant (b : List (OutputNum × ActionMode)) : (s.applyBatch b).grant = s.grant := (applyBatch_keeps s b).grant rfl
@[simp] theorem applyBatch_timeBase (b : List (OutputNum × ActionMode)) : (s.applyBatch b).timeBase = s.timeBase := (applyBatch_keeps s b).timeBase
@[simp] theorem applyBatch_chanSel (b : List (OutputNum × ActionMode)) : (s.applyBatch b).chanSel = s.chanSel := (applyBatch_keeps s b).chanSel
@[simp] theorem applyBatch_configAddr (b : List (OutputNum × ActionMode)) : (s.applyBatch b).configAddr = s.configAddr := (applyBatch_keeps s b).configAddr
@[simp] theorem applyBatch_pending (b : List (OutputNum × ActionMode)) : (s.applyBatch b).pending = s.pending := (applyBatch_keeps s b).pending
@[simp] theorem chan_applyBatch (b : List (OutputNum × ActionMode)) (j : Channel) : (s.applyBatch b).chan j = s.chan j := by simp [State.chan]
@[simp] theorem ser_applyBatch (b : List (OutputNum × ActionMode)) (j : SerialChannel) : (s.applyBatch b).ser j = s.ser j := by simp [State.ser]
@[simp] theorem line_applyBatch (b : List (OutputNum × ActionMode)) (j : LineNum) : (s.applyBatch b).line j = s.line j := by simp [State.line]
@[simp] theorem slot_applyBatch (b : List (OutputNum × ActionMode)) (j : PatternNum) : (s.applyBatch b).slot j = s.slot j := by simp [State.slot]

/-! ## expirePulse -/

@[simp] theorem expirePulse_inReset (o : OutputNum) : (s.expirePulse o).inReset = s.inReset := (expirePulse_keeps s o).inReset
@[simp] theorem expirePulse_serial (o : OutputNum) : (s.expirePulse o).serial = s.serial := (expirePulse_keeps s o).serial rfl
@[simp] theorem expirePulse_lines (o : OutputNum) : (s.expirePulse o).lines = s.lines := (expirePulse_keeps s o).lines rfl
@[simp] theorem expirePulse_debounce (o : OutputNum) : (s.expirePulse o).debounce = s.debounce := (expirePulse_keeps s o).debounce
@[simp] theorem expirePulse_chans (o : OutputNum) : (s.expirePulse o).chans = s.chans := (expirePulse_keeps s o).chans rfl
@[simp] theorem expirePulse_slots (o : OutputNum) : (s.expirePulse o).slots = s.slots := (expirePulse_keeps s o).slots rfl
@[simp] theorem expirePulse_pool (o : OutputNum) : (s.expirePulse o).pool = s.pool := (expirePulse_keeps s o).pool rfl
@[simp] theorem expirePulse_lastServed (o : OutputNum) : (s.expirePulse o).lastServed = s.lastServed := (expirePulse_keeps s o).lastServed
@[simp] theorem expirePulse_eventQueue (o : OutputNum) : (s.expirePulse o).eventQueue = s.eventQueue := (expirePulse_keeps s o).eventQueue rfl
@[simp] theorem expirePulse_eventLevels (o : OutputNum) : (s.expirePulse o).eventLevels = s.eventLevels := (expirePulse_keeps s o).eventLevels
@[simp] theorem expirePulse_staging (o : OutputNum) : (s.expirePulse o).staging = s.staging := (expirePulse_keeps s o).staging
@[simp] theorem expirePulse_operand (o : OutputNum) : (s.expirePulse o).operand = s.operand := (expirePulse_keeps s o).operand
@[simp] theorem expirePulse_pendingCommand (o : OutputNum) : (s.expirePulse o).pendingCommand = s.pendingCommand := (expirePulse_keeps s o).pendingCommand
@[simp] theorem expirePulse_compacting (o : OutputNum) : (s.expirePulse o).compacting = s.compacting := (expirePulse_keeps s o).compacting rfl
@[simp] theorem expirePulse_arbiterMode (o : OutputNum) : (s.expirePulse o).arbiterMode = s.arbiterMode := (expirePulse_keeps s o).arbiterMode
@[simp] theorem expirePulse_grant (o : OutputNum) : (s.expirePulse o).grant = s.grant := (expirePulse_keeps s o).grant rfl
@[simp] theorem expirePulse_timeBase (o : OutputNum) : (s.expirePulse o).timeBase = s.timeBase := (expirePulse_keeps s o).timeBase
@[simp] theorem expirePulse_chanSel (o : OutputNum) : (s.expirePulse o).chanSel = s.chanSel := (expirePulse_keeps s o).chanSel
@[simp] theorem expirePulse_configAddr (o : OutputNum) : (s.expirePulse o).configAddr = s.configAddr := (expirePulse_keeps s o).configAddr
@[simp] theorem expirePulse_pending (o : OutputNum) : (s.expirePulse o).pending = s.pending := (expirePulse_keeps s o).pending
@[simp] theorem chan_expirePulse (o : OutputNum) (j : Channel) : (s.expirePulse o).chan j = s.chan j := by simp [State.chan]
@[simp] theorem ser_expirePulse (o : OutputNum) (j : SerialChannel) : (s.expirePulse o).ser j = s.ser j := by simp [State.ser]
@[simp] theorem line_expirePulse (o : OutputNum) (j : LineNum) : (s.expirePulse o).line j = s.line j := by simp [State.line]
@[simp] theorem slot_expirePulse (o : OutputNum) (j : PatternNum) : (s.expirePulse o).slot j = s.slot j := by simp [State.slot]

/-! ## placeRun -/

@[simp] theorem placeRun_inReset (n : PatternNum) (sl : Slot) (a : Nat) (es : List Element) : (s.placeRun n sl a es).inReset = s.inReset := (placeRun_keeps s n sl a es).inReset
@[simp] theorem placeRun_serial (n : PatternNum) (sl : Slot) (a : Nat) (es : List Element) : (s.placeRun n sl a es).serial = s.serial := (placeRun_keeps s n sl a es).serial rfl
@[simp] theorem placeRun_lines (n : PatternNum) (sl : Slot) (a : Nat) (es : List Element) : (s.placeRun n sl a es).lines = s.lines := (placeRun_keeps s n sl a es).lines rfl
@[simp] theorem placeRun_debounce (n : PatternNum) (sl : Slot) (a : Nat) (es : List Element) : (s.placeRun n sl a es).debounce = s.debounce := (placeRun_keeps s n sl a es).debounce
@[simp] theorem placeRun_chans (n : PatternNum) (sl : Slot) (a : Nat) (es : List Element) : (s.placeRun n sl a es).chans = s.chans := (placeRun_keeps s n sl a es).chans rfl
@[simp] theorem placeRun_lastServed (n : PatternNum) (sl : Slot) (a : Nat) (es : List Element) : (s.placeRun n sl a es).lastServed = s.lastServed := (placeRun_keeps s n sl a es).lastServed
@[simp] theorem placeRun_eventQueue (n : PatternNum) (sl : Slot) (a : Nat) (es : List Element) : (s.placeRun n sl a es).eventQueue = s.eventQueue := (placeRun_keeps s n sl a es).eventQueue rfl
@[simp] theorem placeRun_eventLevels (n : PatternNum) (sl : Slot) (a : Nat) (es : List Element) : (s.placeRun n sl a es).eventLevels = s.eventLevels := (placeRun_keeps s n sl a es).eventLevels
@[simp] theorem placeRun_outputs (n : PatternNum) (sl : Slot) (a : Nat) (es : List Element) : (s.placeRun n sl a es).outputs = s.outputs := (placeRun_keeps s n sl a es).outputs rfl
@[simp] theorem placeRun_staging (n : PatternNum) (sl : Slot) (a : Nat) (es : List Element) : (s.placeRun n sl a es).staging = s.staging := (placeRun_keeps s n sl a es).staging
@[simp] theorem placeRun_operand (n : PatternNum) (sl : Slot) (a : Nat) (es : List Element) : (s.placeRun n sl a es).operand = s.operand := (placeRun_keeps s n sl a es).operand
@[simp] theorem placeRun_pendingCommand (n : PatternNum) (sl : Slot) (a : Nat) (es : List Element) : (s.placeRun n sl a es).pendingCommand = s.pendingCommand := (placeRun_keeps s n sl a es).pendingCommand
@[simp] theorem placeRun_compacting (n : PatternNum) (sl : Slot) (a : Nat) (es : List Element) : (s.placeRun n sl a es).compacting = s.compacting := (placeRun_keeps s n sl a es).compacting rfl
@[simp] theorem placeRun_arbiterMode (n : PatternNum) (sl : Slot) (a : Nat) (es : List Element) : (s.placeRun n sl a es).arbiterMode = s.arbiterMode := (placeRun_keeps s n sl a es).arbiterMode
@[simp] theorem placeRun_grant (n : PatternNum) (sl : Slot) (a : Nat) (es : List Element) : (s.placeRun n sl a es).grant = s.grant := (placeRun_keeps s n sl a es).grant rfl
@[simp] theorem placeRun_timeBase (n : PatternNum) (sl : Slot) (a : Nat) (es : List Element) : (s.placeRun n sl a es).timeBase = s.timeBase := (placeRun_keeps s n sl a es).timeBase
@[simp] theorem placeRun_chanSel (n : PatternNum) (sl : Slot) (a : Nat) (es : List Element) : (s.placeRun n sl a es).chanSel = s.chanSel := (placeRun_keeps s n sl a es).chanSel
@[simp] theorem placeRun_configAddr (n : PatternNum) (sl : Slot) (a : Nat) (es : List Element) : (s.placeRun n sl a es).configAddr = s.configAddr := (placeRun_keeps s n sl a es).configAddr
@[simp] theorem placeRun_pending (n : PatternNum) (sl : Slot) (a : Nat) (es : List Element) : (s.placeRun n sl a es).pending = s.pending := (placeRun_keeps s n sl a es).pending
@[simp] theorem chan_placeRun (n : PatternNum) (sl : Slot) (a : Nat) (es : List Element) (j : Channel) : (s.placeRun n sl a es).chan j = s.chan j := by simp [State.chan]
@[simp] theorem ser_placeRun (n : PatternNum) (sl : Slot) (a : Nat) (es : List Element) (j : SerialChannel) : (s.placeRun n sl a es).ser j = s.ser j := by simp [State.ser]
@[simp] theorem line_placeRun (n : PatternNum) (sl : Slot) (a : Nat) (es : List Element) (j : LineNum) : (s.placeRun n sl a es).line j = s.line j := by simp [State.line]
@[simp] theorem output_placeRun (n : PatternNum) (sl : Slot) (a : Nat) (es : List Element) (j : OutputNum) : (s.placeRun n sl a es).output j = s.output j := by simp [State.output]

/-! ## moveRun -/

@[simp] theorem moveRun_inReset (n : PatternNum) : (s.moveRun n).inReset = s.inReset := (moveRun_keeps s n).inReset
@[simp] theorem moveRun_serial (n : PatternNum) : (s.moveRun n).serial = s.serial := (moveRun_keeps s n).serial rfl
@[simp] theorem moveRun_lines (n : PatternNum) : (s.moveRun n).lines = s.lines := (moveRun_keeps s n).lines rfl
@[simp] theorem moveRun_debounce (n : PatternNum) : (s.moveRun n).debounce = s.debounce := (moveRun_keeps s n).debounce
@[simp] theorem moveRun_chans (n : PatternNum) : (s.moveRun n).chans = s.chans := (moveRun_keeps s n).chans rfl
@[simp] theorem moveRun_lastServed (n : PatternNum) : (s.moveRun n).lastServed = s.lastServed := (moveRun_keeps s n).lastServed
@[simp] theorem moveRun_eventQueue (n : PatternNum) : (s.moveRun n).eventQueue = s.eventQueue := (moveRun_keeps s n).eventQueue rfl
@[simp] theorem moveRun_eventLevels (n : PatternNum) : (s.moveRun n).eventLevels = s.eventLevels := (moveRun_keeps s n).eventLevels
@[simp] theorem moveRun_outputs (n : PatternNum) : (s.moveRun n).outputs = s.outputs := (moveRun_keeps s n).outputs rfl
@[simp] theorem moveRun_staging (n : PatternNum) : (s.moveRun n).staging = s.staging := (moveRun_keeps s n).staging
@[simp] theorem moveRun_operand (n : PatternNum) : (s.moveRun n).operand = s.operand := (moveRun_keeps s n).operand
@[simp] theorem moveRun_pendingCommand (n : PatternNum) : (s.moveRun n).pendingCommand = s.pendingCommand := (moveRun_keeps s n).pendingCommand
@[simp] theorem moveRun_compacting (n : PatternNum) : (s.moveRun n).compacting = s.compacting := (moveRun_keeps s n).compacting rfl
@[simp] theorem moveRun_arbiterMode (n : PatternNum) : (s.moveRun n).arbiterMode = s.arbiterMode := (moveRun_keeps s n).arbiterMode
@[simp] theorem moveRun_grant (n : PatternNum) : (s.moveRun n).grant = s.grant := (moveRun_keeps s n).grant rfl
@[simp] theorem moveRun_timeBase (n : PatternNum) : (s.moveRun n).timeBase = s.timeBase := (moveRun_keeps s n).timeBase
@[simp] theorem moveRun_chanSel (n : PatternNum) : (s.moveRun n).chanSel = s.chanSel := (moveRun_keeps s n).chanSel
@[simp] theorem moveRun_configAddr (n : PatternNum) : (s.moveRun n).configAddr = s.configAddr := (moveRun_keeps s n).configAddr
@[simp] theorem moveRun_pending (n : PatternNum) : (s.moveRun n).pending = s.pending := (moveRun_keeps s n).pending
@[simp] theorem chan_moveRun (n : PatternNum) (j : Channel) : (s.moveRun n).chan j = s.chan j := by simp [State.chan]
@[simp] theorem ser_moveRun (n : PatternNum) (j : SerialChannel) : (s.moveRun n).ser j = s.ser j := by simp [State.ser]
@[simp] theorem line_moveRun (n : PatternNum) (j : LineNum) : (s.moveRun n).line j = s.line j := by simp [State.line]
@[simp] theorem output_moveRun (n : PatternNum) (j : OutputNum) : (s.moveRun n).output j = s.output j := by simp [State.output]

/-! ## keepCandidates -/

@[simp] theorem keepCandidates_inReset (ch : Channel) (keep : Candidate → Bool) : (s.keepCandidates ch keep).inReset = s.inReset := (keepCandidates_keeps s ch keep).inReset
@[simp] theorem keepCandidates_serial (ch : Channel) (keep : Candidate → Bool) : (s.keepCandidates ch keep).serial = s.serial := (keepCandidates_keeps s ch keep).serial rfl
@[simp] theorem keepCandidates_lines (ch : Channel) (keep : Candidate → Bool) : (s.keepCandidates ch keep).lines = s.lines := (keepCandidates_keeps s ch keep).lines rfl
@[simp] theorem keepCandidates_debounce (ch : Channel) (keep : Candidate → Bool) : (s.keepCandidates ch keep).debounce = s.debounce := (keepCandidates_keeps s ch keep).debounce
@[simp] theorem keepCandidates_slots (ch : Channel) (keep : Candidate → Bool) : (s.keepCandidates ch keep).slots = s.slots := (keepCandidates_keeps s ch keep).slots rfl
@[simp] theorem keepCandidates_pool (ch : Channel) (keep : Candidate → Bool) : (s.keepCandidates ch keep).pool = s.pool := (keepCandidates_keeps s ch keep).pool rfl
@[simp] theorem keepCandidates_lastServed (ch : Channel) (keep : Candidate → Bool) : (s.keepCandidates ch keep).lastServed = s.lastServed := (keepCandidates_keeps s ch keep).lastServed
@[simp] theorem keepCandidates_eventQueue (ch : Channel) (keep : Candidate → Bool) : (s.keepCandidates ch keep).eventQueue = s.eventQueue := (keepCandidates_keeps s ch keep).eventQueue rfl
@[simp] theorem keepCandidates_eventLevels (ch : Channel) (keep : Candidate → Bool) : (s.keepCandidates ch keep).eventLevels = s.eventLevels := (keepCandidates_keeps s ch keep).eventLevels
@[simp] theorem keepCandidates_outputs (ch : Channel) (keep : Candidate → Bool) : (s.keepCandidates ch keep).outputs = s.outputs := (keepCandidates_keeps s ch keep).outputs rfl
@[simp] theorem keepCandidates_staging (ch : Channel) (keep : Candidate → Bool) : (s.keepCandidates ch keep).staging = s.staging := (keepCandidates_keeps s ch keep).staging
@[simp] theorem keepCandidates_operand (ch : Channel) (keep : Candidate → Bool) : (s.keepCandidates ch keep).operand = s.operand := (keepCandidates_keeps s ch keep).operand
@[simp] theorem keepCandidates_pendingCommand (ch : Channel) (keep : Candidate → Bool) : (s.keepCandidates ch keep).pendingCommand = s.pendingCommand := (keepCandidates_keeps s ch keep).pendingCommand
@[simp] theorem keepCandidates_compacting (ch : Channel) (keep : Candidate → Bool) : (s.keepCandidates ch keep).compacting = s.compacting := (keepCandidates_keeps s ch keep).compacting rfl
@[simp] theorem keepCandidates_arbiterMode (ch : Channel) (keep : Candidate → Bool) : (s.keepCandidates ch keep).arbiterMode = s.arbiterMode := (keepCandidates_keeps s ch keep).arbiterMode
@[simp] theorem keepCandidates_grant (ch : Channel) (keep : Candidate → Bool) : (s.keepCandidates ch keep).grant = s.grant := (keepCandidates_keeps s ch keep).grant rfl
@[simp] theorem keepCandidates_timeBase (ch : Channel) (keep : Candidate → Bool) : (s.keepCandidates ch keep).timeBase = s.timeBase := (keepCandidates_keeps s ch keep).timeBase
@[simp] theorem keepCandidates_chanSel (ch : Channel) (keep : Candidate → Bool) : (s.keepCandidates ch keep).chanSel = s.chanSel := (keepCandidates_keeps s ch keep).chanSel
@[simp] theorem keepCandidates_configAddr (ch : Channel) (keep : Candidate → Bool) : (s.keepCandidates ch keep).configAddr = s.configAddr := (keepCandidates_keeps s ch keep).configAddr
@[simp] theorem keepCandidates_pending (ch : Channel) (keep : Candidate → Bool) : (s.keepCandidates ch keep).pending = s.pending := (keepCandidates_keeps s ch keep).pending
@[simp] theorem ser_keepCandidates (ch : Channel) (keep : Candidate → Bool) (j : SerialChannel) : (s.keepCandidates ch keep).ser j = s.ser j := by simp [State.ser]
@[simp] theorem line_keepCandidates (ch : Channel) (keep : Candidate → Bool) (j : LineNum) : (s.keepCandidates ch keep).line j = s.line j := by simp [State.line]
@[simp] theorem slot_keepCandidates (ch : Channel) (keep : Candidate → Bool) (j : PatternNum) : (s.keepCandidates ch keep).slot j = s.slot j := by simp [State.slot]
@[simp] theorem output_keepCandidates (ch : Channel) (keep : Candidate → Bool) (j : OutputNum) : (s.keepCandidates ch keep).output j = s.output j := by simp [State.output]

/-! ## emptyContext -/

@[simp] theorem emptyContext_inReset (ch : Channel) : (s.emptyContext ch).inReset = s.inReset := (emptyContext_keeps s ch).inReset
@[simp] theorem emptyContext_serial (ch : Channel) : (s.emptyContext ch).serial = s.serial := (emptyContext_keeps s ch).serial rfl
@[simp] theorem emptyContext_lines (ch : Channel) : (s.emptyContext ch).lines = s.lines := (emptyContext_keeps s ch).lines rfl
@[simp] theorem emptyContext_debounce (ch : Channel) : (s.emptyContext ch).debounce = s.debounce := (emptyContext_keeps s ch).debounce
@[simp] theorem emptyContext_slots (ch : Channel) : (s.emptyContext ch).slots = s.slots := (emptyContext_keeps s ch).slots rfl
@[simp] theorem emptyContext_pool (ch : Channel) : (s.emptyContext ch).pool = s.pool := (emptyContext_keeps s ch).pool rfl
@[simp] theorem emptyContext_lastServed (ch : Channel) : (s.emptyContext ch).lastServed = s.lastServed := (emptyContext_keeps s ch).lastServed
@[simp] theorem emptyContext_eventQueue (ch : Channel) : (s.emptyContext ch).eventQueue = s.eventQueue := (emptyContext_keeps s ch).eventQueue rfl
@[simp] theorem emptyContext_eventLevels (ch : Channel) : (s.emptyContext ch).eventLevels = s.eventLevels := (emptyContext_keeps s ch).eventLevels
@[simp] theorem emptyContext_outputs (ch : Channel) : (s.emptyContext ch).outputs = s.outputs := (emptyContext_keeps s ch).outputs rfl
@[simp] theorem emptyContext_staging (ch : Channel) : (s.emptyContext ch).staging = s.staging := (emptyContext_keeps s ch).staging
@[simp] theorem emptyContext_operand (ch : Channel) : (s.emptyContext ch).operand = s.operand := (emptyContext_keeps s ch).operand
@[simp] theorem emptyContext_pendingCommand (ch : Channel) : (s.emptyContext ch).pendingCommand = s.pendingCommand := (emptyContext_keeps s ch).pendingCommand
@[simp] theorem emptyContext_compacting (ch : Channel) : (s.emptyContext ch).compacting = s.compacting := (emptyContext_keeps s ch).compacting rfl
@[simp] theorem emptyContext_arbiterMode (ch : Channel) : (s.emptyContext ch).arbiterMode = s.arbiterMode := (emptyContext_keeps s ch).arbiterMode
@[simp] theorem emptyContext_grant (ch : Channel) : (s.emptyContext ch).grant = s.grant := (emptyContext_keeps s ch).grant rfl
@[simp] theorem emptyContext_timeBase (ch : Channel) : (s.emptyContext ch).timeBase = s.timeBase := (emptyContext_keeps s ch).timeBase
@[simp] theorem emptyContext_chanSel (ch : Channel) : (s.emptyContext ch).chanSel = s.chanSel := (emptyContext_keeps s ch).chanSel
@[simp] theorem emptyContext_configAddr (ch : Channel) : (s.emptyContext ch).configAddr = s.configAddr := (emptyContext_keeps s ch).configAddr
@[simp] theorem emptyContext_pending (ch : Channel) : (s.emptyContext ch).pending = s.pending := (emptyContext_keeps s ch).pending
@[simp] theorem ser_emptyContext (ch : Channel) (j : SerialChannel) : (s.emptyContext ch).ser j = s.ser j := by simp [State.ser]
@[simp] theorem line_emptyContext (ch : Channel) (j : LineNum) : (s.emptyContext ch).line j = s.line j := by simp [State.line]
@[simp] theorem slot_emptyContext (ch : Channel) (j : PatternNum) : (s.emptyContext ch).slot j = s.slot j := by simp [State.slot]
@[simp] theorem output_emptyContext (ch : Channel) (j : OutputNum) : (s.emptyContext ch).output j = s.output j := by simp [State.output]

/-! ## takeHead -/

@[simp] theorem takeHead_inReset (ch : Channel) : (s.takeHead ch).inReset = s.inReset := (takeHead_keeps s ch).inReset
@[simp] theorem takeHead_serial (ch : Channel) : (s.takeHead ch).serial = s.serial := (takeHead_keeps s ch).serial rfl
@[simp] theorem takeHead_lines (ch : Channel) : (s.takeHead ch).lines = s.lines := (takeHead_keeps s ch).lines rfl
@[simp] theorem takeHead_debounce (ch : Channel) : (s.takeHead ch).debounce = s.debounce := (takeHead_keeps s ch).debounce
@[simp] theorem takeHead_slots (ch : Channel) : (s.takeHead ch).slots = s.slots := (takeHead_keeps s ch).slots rfl
@[simp] theorem takeHead_pool (ch : Channel) : (s.takeHead ch).pool = s.pool := (takeHead_keeps s ch).pool rfl
@[simp] theorem takeHead_lastServed (ch : Channel) : (s.takeHead ch).lastServed = s.lastServed := (takeHead_keeps s ch).lastServed
@[simp] theorem takeHead_eventQueue (ch : Channel) : (s.takeHead ch).eventQueue = s.eventQueue := (takeHead_keeps s ch).eventQueue rfl
@[simp] theorem takeHead_eventLevels (ch : Channel) : (s.takeHead ch).eventLevels = s.eventLevels := (takeHead_keeps s ch).eventLevels
@[simp] theorem takeHead_outputs (ch : Channel) : (s.takeHead ch).outputs = s.outputs := (takeHead_keeps s ch).outputs rfl
@[simp] theorem takeHead_staging (ch : Channel) : (s.takeHead ch).staging = s.staging := (takeHead_keeps s ch).staging
@[simp] theorem takeHead_operand (ch : Channel) : (s.takeHead ch).operand = s.operand := (takeHead_keeps s ch).operand
@[simp] theorem takeHead_pendingCommand (ch : Channel) : (s.takeHead ch).pendingCommand = s.pendingCommand := (takeHead_keeps s ch).pendingCommand
@[simp] theorem takeHead_compacting (ch : Channel) : (s.takeHead ch).compacting = s.compacting := (takeHead_keeps s ch).compacting rfl
@[simp] theorem takeHead_arbiterMode (ch : Channel) : (s.takeHead ch).arbiterMode = s.arbiterMode := (takeHead_keeps s ch).arbiterMode
@[simp] theorem takeHead_grant (ch : Channel) : (s.takeHead ch).grant = s.grant := (takeHead_keeps s ch).grant rfl
@[simp] theorem takeHead_timeBase (ch : Channel) : (s.takeHead ch).timeBase = s.timeBase := (takeHead_keeps s ch).timeBase
@[simp] theorem takeHead_chanSel (ch : Channel) : (s.takeHead ch).chanSel = s.chanSel := (takeHead_keeps s ch).chanSel
@[simp] theorem takeHead_configAddr (ch : Channel) : (s.takeHead ch).configAddr = s.configAddr := (takeHead_keeps s ch).configAddr
@[simp] theorem takeHead_pending (ch : Channel) : (s.takeHead ch).pending = s.pending := (takeHead_keeps s ch).pending
@[simp] theorem ser_takeHead (ch : Channel) (j : SerialChannel) : (s.takeHead ch).ser j = s.ser j := by simp [State.ser]
@[simp] theorem line_takeHead (ch : Channel) (j : LineNum) : (s.takeHead ch).line j = s.line j := by simp [State.line]
@[simp] theorem slot_takeHead (ch : Channel) (j : PatternNum) : (s.takeHead ch).slot j = s.slot j := by simp [State.slot]
@[simp] theorem output_takeHead (ch : Channel) (j : OutputNum) : (s.takeHead ch).output j = s.output j := by simp [State.output]

/-! ## flushQueue -/

@[simp] theorem flushQueue_inReset (ch : Channel) : (s.flushQueue ch).inReset = s.inReset := (flushQueue_keeps s ch).inReset
@[simp] theorem flushQueue_serial (ch : Channel) : (s.flushQueue ch).serial = s.serial := (flushQueue_keeps s ch).serial rfl
@[simp] theorem flushQueue_lines (ch : Channel) : (s.flushQueue ch).lines = s.lines := (flushQueue_keeps s ch).lines rfl
@[simp] theorem flushQueue_debounce (ch : Channel) : (s.flushQueue ch).debounce = s.debounce := (flushQueue_keeps s ch).debounce
@[simp] theorem flushQueue_slots (ch : Channel) : (s.flushQueue ch).slots = s.slots := (flushQueue_keeps s ch).slots rfl
@[simp] theorem flushQueue_pool (ch : Channel) : (s.flushQueue ch).pool = s.pool := (flushQueue_keeps s ch).pool rfl
@[simp] theorem flushQueue_lastServed (ch : Channel) : (s.flushQueue ch).lastServed = s.lastServed := (flushQueue_keeps s ch).lastServed
@[simp] theorem flushQueue_eventQueue (ch : Channel) : (s.flushQueue ch).eventQueue = s.eventQueue := (flushQueue_keeps s ch).eventQueue rfl
@[simp] theorem flushQueue_eventLevels (ch : Channel) : (s.flushQueue ch).eventLevels = s.eventLevels := (flushQueue_keeps s ch).eventLevels
@[simp] theorem flushQueue_outputs (ch : Channel) : (s.flushQueue ch).outputs = s.outputs := (flushQueue_keeps s ch).outputs rfl
@[simp] theorem flushQueue_staging (ch : Channel) : (s.flushQueue ch).staging = s.staging := (flushQueue_keeps s ch).staging
@[simp] theorem flushQueue_operand (ch : Channel) : (s.flushQueue ch).operand = s.operand := (flushQueue_keeps s ch).operand
@[simp] theorem flushQueue_pendingCommand (ch : Channel) : (s.flushQueue ch).pendingCommand = s.pendingCommand := (flushQueue_keeps s ch).pendingCommand
@[simp] theorem flushQueue_compacting (ch : Channel) : (s.flushQueue ch).compacting = s.compacting := (flushQueue_keeps s ch).compacting rfl
@[simp] theorem flushQueue_arbiterMode (ch : Channel) : (s.flushQueue ch).arbiterMode = s.arbiterMode := (flushQueue_keeps s ch).arbiterMode
@[simp] theorem flushQueue_grant (ch : Channel) : (s.flushQueue ch).grant = s.grant := (flushQueue_keeps s ch).grant rfl
@[simp] theorem flushQueue_timeBase (ch : Channel) : (s.flushQueue ch).timeBase = s.timeBase := (flushQueue_keeps s ch).timeBase
@[simp] theorem flushQueue_chanSel (ch : Channel) : (s.flushQueue ch).chanSel = s.chanSel := (flushQueue_keeps s ch).chanSel
@[simp] theorem flushQueue_configAddr (ch : Channel) : (s.flushQueue ch).configAddr = s.configAddr := (flushQueue_keeps s ch).configAddr
@[simp] theorem flushQueue_pending (ch : Channel) : (s.flushQueue ch).pending = s.pending := (flushQueue_keeps s ch).pending
@[simp] theorem ser_flushQueue (ch : Channel) (j : SerialChannel) : (s.flushQueue ch).ser j = s.ser j := by simp [State.ser]
@[simp] theorem line_flushQueue (ch : Channel) (j : LineNum) : (s.flushQueue ch).line j = s.line j := by simp [State.line]
@[simp] theorem slot_flushQueue (ch : Channel) (j : PatternNum) : (s.flushQueue ch).slot j = s.slot j := by simp [State.slot]
@[simp] theorem output_flushQueue (ch : Channel) (j : OutputNum) : (s.flushQueue ch).output j = s.output j := by simp [State.output]

/-! ## swallow -/

@[simp] theorem swallow_inReset (ch : Channel) (x : Symbol) (b : ArrivalNum) (t : Nat) : (s.swallow ch x b t).inReset = s.inReset := (swallow_keeps s ch x b t).inReset
@[simp] theorem swallow_serial (ch : Channel) (x : Symbol) (b : ArrivalNum) (t : Nat) : (s.swallow ch x b t).serial = s.serial := (swallow_keeps s ch x b t).serial rfl
@[simp] theorem swallow_lines (ch : Channel) (x : Symbol) (b : ArrivalNum) (t : Nat) : (s.swallow ch x b t).lines = s.lines := (swallow_keeps s ch x b t).lines rfl
@[simp] theorem swallow_debounce (ch : Channel) (x : Symbol) (b : ArrivalNum) (t : Nat) : (s.swallow ch x b t).debounce = s.debounce := (swallow_keeps s ch x b t).debounce
@[simp] theorem swallow_slots (ch : Channel) (x : Symbol) (b : ArrivalNum) (t : Nat) : (s.swallow ch x b t).slots = s.slots := (swallow_keeps s ch x b t).slots rfl
@[simp] theorem swallow_pool (ch : Channel) (x : Symbol) (b : ArrivalNum) (t : Nat) : (s.swallow ch x b t).pool = s.pool := (swallow_keeps s ch x b t).pool rfl
@[simp] theorem swallow_lastServed (ch : Channel) (x : Symbol) (b : ArrivalNum) (t : Nat) : (s.swallow ch x b t).lastServed = s.lastServed := (swallow_keeps s ch x b t).lastServed
@[simp] theorem swallow_eventQueue (ch : Channel) (x : Symbol) (b : ArrivalNum) (t : Nat) : (s.swallow ch x b t).eventQueue = s.eventQueue := (swallow_keeps s ch x b t).eventQueue rfl
@[simp] theorem swallow_eventLevels (ch : Channel) (x : Symbol) (b : ArrivalNum) (t : Nat) : (s.swallow ch x b t).eventLevels = s.eventLevels := (swallow_keeps s ch x b t).eventLevels
@[simp] theorem swallow_outputs (ch : Channel) (x : Symbol) (b : ArrivalNum) (t : Nat) : (s.swallow ch x b t).outputs = s.outputs := (swallow_keeps s ch x b t).outputs rfl
@[simp] theorem swallow_staging (ch : Channel) (x : Symbol) (b : ArrivalNum) (t : Nat) : (s.swallow ch x b t).staging = s.staging := (swallow_keeps s ch x b t).staging
@[simp] theorem swallow_operand (ch : Channel) (x : Symbol) (b : ArrivalNum) (t : Nat) : (s.swallow ch x b t).operand = s.operand := (swallow_keeps s ch x b t).operand
@[simp] theorem swallow_pendingCommand (ch : Channel) (x : Symbol) (b : ArrivalNum) (t : Nat) : (s.swallow ch x b t).pendingCommand = s.pendingCommand := (swallow_keeps s ch x b t).pendingCommand
@[simp] theorem swallow_compacting (ch : Channel) (x : Symbol) (b : ArrivalNum) (t : Nat) : (s.swallow ch x b t).compacting = s.compacting := (swallow_keeps s ch x b t).compacting rfl
@[simp] theorem swallow_arbiterMode (ch : Channel) (x : Symbol) (b : ArrivalNum) (t : Nat) : (s.swallow ch x b t).arbiterMode = s.arbiterMode := (swallow_keeps s ch x b t).arbiterMode
@[simp] theorem swallow_grant (ch : Channel) (x : Symbol) (b : ArrivalNum) (t : Nat) : (s.swallow ch x b t).grant = s.grant := (swallow_keeps s ch x b t).grant rfl
@[simp] theorem swallow_timeBase (ch : Channel) (x : Symbol) (b : ArrivalNum) (t : Nat) : (s.swallow ch x b t).timeBase = s.timeBase := (swallow_keeps s ch x b t).timeBase
@[simp] theorem swallow_chanSel (ch : Channel) (x : Symbol) (b : ArrivalNum) (t : Nat) : (s.swallow ch x b t).chanSel = s.chanSel := (swallow_keeps s ch x b t).chanSel
@[simp] theorem swallow_configAddr (ch : Channel) (x : Symbol) (b : ArrivalNum) (t : Nat) : (s.swallow ch x b t).configAddr = s.configAddr := (swallow_keeps s ch x b t).configAddr
@[simp] theorem swallow_pending (ch : Channel) (x : Symbol) (b : ArrivalNum) (t : Nat) : (s.swallow ch x b t).pending = s.pending := (swallow_keeps s ch x b t).pending
@[simp] theorem ser_swallow (ch : Channel) (x : Symbol) (b : ArrivalNum) (t : Nat) (j : SerialChannel) : (s.swallow ch x b t).ser j = s.ser j := by simp [State.ser]
@[simp] theorem line_swallow (ch : Channel) (x : Symbol) (b : ArrivalNum) (t : Nat) (j : LineNum) : (s.swallow ch x b t).line j = s.line j := by simp [State.line]
@[simp] theorem slot_swallow (ch : Channel) (x : Symbol) (b : ArrivalNum) (t : Nat) (j : PatternNum) : (s.swallow ch x b t).slot j = s.slot j := by simp [State.slot]
@[simp] theorem output_swallow (ch : Channel) (x : Symbol) (b : ArrivalNum) (t : Nat) (j : OutputNum) : (s.swallow ch x b t).output j = s.output j := by simp [State.output]

/-! ## appendRaw -/

@[simp] theorem appendRaw_inReset (ch : Channel) (k : RawKind) : (s.appendRaw ch k).inReset = s.inReset := (appendRaw_keeps s ch k).inReset
@[simp] theorem appendRaw_serial (ch : Channel) (k : RawKind) : (s.appendRaw ch k).serial = s.serial := (appendRaw_keeps s ch k).serial rfl
@[simp] theorem appendRaw_lines (ch : Channel) (k : RawKind) : (s.appendRaw ch k).lines = s.lines := (appendRaw_keeps s ch k).lines rfl
@[simp] theorem appendRaw_debounce (ch : Channel) (k : RawKind) : (s.appendRaw ch k).debounce = s.debounce := (appendRaw_keeps s ch k).debounce
@[simp] theorem appendRaw_slots (ch : Channel) (k : RawKind) : (s.appendRaw ch k).slots = s.slots := (appendRaw_keeps s ch k).slots rfl
@[simp] theorem appendRaw_pool (ch : Channel) (k : RawKind) : (s.appendRaw ch k).pool = s.pool := (appendRaw_keeps s ch k).pool rfl
@[simp] theorem appendRaw_lastServed (ch : Channel) (k : RawKind) : (s.appendRaw ch k).lastServed = s.lastServed := (appendRaw_keeps s ch k).lastServed
@[simp] theorem appendRaw_eventQueue (ch : Channel) (k : RawKind) : (s.appendRaw ch k).eventQueue = s.eventQueue := (appendRaw_keeps s ch k).eventQueue rfl
@[simp] theorem appendRaw_eventLevels (ch : Channel) (k : RawKind) : (s.appendRaw ch k).eventLevels = s.eventLevels := (appendRaw_keeps s ch k).eventLevels
@[simp] theorem appendRaw_outputs (ch : Channel) (k : RawKind) : (s.appendRaw ch k).outputs = s.outputs := (appendRaw_keeps s ch k).outputs rfl
@[simp] theorem appendRaw_staging (ch : Channel) (k : RawKind) : (s.appendRaw ch k).staging = s.staging := (appendRaw_keeps s ch k).staging
@[simp] theorem appendRaw_operand (ch : Channel) (k : RawKind) : (s.appendRaw ch k).operand = s.operand := (appendRaw_keeps s ch k).operand
@[simp] theorem appendRaw_pendingCommand (ch : Channel) (k : RawKind) : (s.appendRaw ch k).pendingCommand = s.pendingCommand := (appendRaw_keeps s ch k).pendingCommand
@[simp] theorem appendRaw_compacting (ch : Channel) (k : RawKind) : (s.appendRaw ch k).compacting = s.compacting := (appendRaw_keeps s ch k).compacting rfl
@[simp] theorem appendRaw_arbiterMode (ch : Channel) (k : RawKind) : (s.appendRaw ch k).arbiterMode = s.arbiterMode := (appendRaw_keeps s ch k).arbiterMode
@[simp] theorem appendRaw_grant (ch : Channel) (k : RawKind) : (s.appendRaw ch k).grant = s.grant := (appendRaw_keeps s ch k).grant rfl
@[simp] theorem appendRaw_timeBase (ch : Channel) (k : RawKind) : (s.appendRaw ch k).timeBase = s.timeBase := (appendRaw_keeps s ch k).timeBase
@[simp] theorem appendRaw_chanSel (ch : Channel) (k : RawKind) : (s.appendRaw ch k).chanSel = s.chanSel := (appendRaw_keeps s ch k).chanSel
@[simp] theorem appendRaw_configAddr (ch : Channel) (k : RawKind) : (s.appendRaw ch k).configAddr = s.configAddr := (appendRaw_keeps s ch k).configAddr
@[simp] theorem appendRaw_pending (ch : Channel) (k : RawKind) : (s.appendRaw ch k).pending = s.pending := (appendRaw_keeps s ch k).pending
@[simp] theorem ser_appendRaw (ch : Channel) (k : RawKind) (j : SerialChannel) : (s.appendRaw ch k).ser j = s.ser j := by simp [State.ser]
@[simp] theorem line_appendRaw (ch : Channel) (k : RawKind) (j : LineNum) : (s.appendRaw ch k).line j = s.line j := by simp [State.line]
@[simp] theorem slot_appendRaw (ch : Channel) (k : RawKind) (j : PatternNum) : (s.appendRaw ch k).slot j = s.slot j := by simp [State.slot]
@[simp] theorem output_appendRaw (ch : Channel) (k : RawKind) (j : OutputNum) : (s.appendRaw ch k).output j = s.output j := by simp [State.output]

/-! ## injectByte -/

@[simp] theorem injectByte_inReset (ch : Channel) (v : Byte) : (s.injectByte ch v).inReset = s.inReset := (injectByte_keeps s ch v).inReset
@[simp] theorem injectByte_serial (ch : Channel) (v : Byte) : (s.injectByte ch v).serial = s.serial := (injectByte_keeps s ch v).serial rfl
@[simp] theorem injectByte_lines (ch : Channel) (v : Byte) : (s.injectByte ch v).lines = s.lines := (injectByte_keeps s ch v).lines rfl
@[simp] theorem injectByte_debounce (ch : Channel) (v : Byte) : (s.injectByte ch v).debounce = s.debounce := (injectByte_keeps s ch v).debounce
@[simp] theorem injectByte_slots (ch : Channel) (v : Byte) : (s.injectByte ch v).slots = s.slots := (injectByte_keeps s ch v).slots rfl
@[simp] theorem injectByte_pool (ch : Channel) (v : Byte) : (s.injectByte ch v).pool = s.pool := (injectByte_keeps s ch v).pool rfl
@[simp] theorem injectByte_lastServed (ch : Channel) (v : Byte) : (s.injectByte ch v).lastServed = s.lastServed := (injectByte_keeps s ch v).lastServed
@[simp] theorem injectByte_eventQueue (ch : Channel) (v : Byte) : (s.injectByte ch v).eventQueue = s.eventQueue := (injectByte_keeps s ch v).eventQueue rfl
@[simp] theorem injectByte_eventLevels (ch : Channel) (v : Byte) : (s.injectByte ch v).eventLevels = s.eventLevels := (injectByte_keeps s ch v).eventLevels
@[simp] theorem injectByte_outputs (ch : Channel) (v : Byte) : (s.injectByte ch v).outputs = s.outputs := (injectByte_keeps s ch v).outputs rfl
@[simp] theorem injectByte_staging (ch : Channel) (v : Byte) : (s.injectByte ch v).staging = s.staging := (injectByte_keeps s ch v).staging
@[simp] theorem injectByte_operand (ch : Channel) (v : Byte) : (s.injectByte ch v).operand = s.operand := (injectByte_keeps s ch v).operand
@[simp] theorem injectByte_pendingCommand (ch : Channel) (v : Byte) : (s.injectByte ch v).pendingCommand = s.pendingCommand := (injectByte_keeps s ch v).pendingCommand
@[simp] theorem injectByte_compacting (ch : Channel) (v : Byte) : (s.injectByte ch v).compacting = s.compacting := (injectByte_keeps s ch v).compacting rfl
@[simp] theorem injectByte_arbiterMode (ch : Channel) (v : Byte) : (s.injectByte ch v).arbiterMode = s.arbiterMode := (injectByte_keeps s ch v).arbiterMode
@[simp] theorem injectByte_grant (ch : Channel) (v : Byte) : (s.injectByte ch v).grant = s.grant := (injectByte_keeps s ch v).grant rfl
@[simp] theorem injectByte_timeBase (ch : Channel) (v : Byte) : (s.injectByte ch v).timeBase = s.timeBase := (injectByte_keeps s ch v).timeBase
@[simp] theorem injectByte_chanSel (ch : Channel) (v : Byte) : (s.injectByte ch v).chanSel = s.chanSel := (injectByte_keeps s ch v).chanSel
@[simp] theorem injectByte_configAddr (ch : Channel) (v : Byte) : (s.injectByte ch v).configAddr = s.configAddr := (injectByte_keeps s ch v).configAddr
@[simp] theorem injectByte_pending (ch : Channel) (v : Byte) : (s.injectByte ch v).pending = s.pending := (injectByte_keeps s ch v).pending
@[simp] theorem ser_injectByte (ch : Channel) (v : Byte) (j : SerialChannel) : (s.injectByte ch v).ser j = s.ser j := by simp [State.ser]
@[simp] theorem line_injectByte (ch : Channel) (v : Byte) (j : LineNum) : (s.injectByte ch v).line j = s.line j := by simp [State.line]
@[simp] theorem slot_injectByte (ch : Channel) (v : Byte) (j : PatternNum) : (s.injectByte ch v).slot j = s.slot j := by simp [State.slot]
@[simp] theorem output_injectByte (ch : Channel) (v : Byte) (j : OutputNum) : (s.injectByte ch v).output j = s.output j := by simp [State.output]

/-! ## popRaw -/

@[simp] theorem popRaw_inReset (ch : Channel) : (s.popRaw ch).inReset = s.inReset := (popRaw_keeps s ch).inReset
@[simp] theorem popRaw_serial (ch : Channel) : (s.popRaw ch).serial = s.serial := (popRaw_keeps s ch).serial rfl
@[simp] theorem popRaw_lines (ch : Channel) : (s.popRaw ch).lines = s.lines := (popRaw_keeps s ch).lines rfl
@[simp] theorem popRaw_debounce (ch : Channel) : (s.popRaw ch).debounce = s.debounce := (popRaw_keeps s ch).debounce
@[simp] theorem popRaw_slots (ch : Channel) : (s.popRaw ch).slots = s.slots := (popRaw_keeps s ch).slots rfl
@[simp] theorem popRaw_pool (ch : Channel) : (s.popRaw ch).pool = s.pool := (popRaw_keeps s ch).pool rfl
@[simp] theorem popRaw_lastServed (ch : Channel) : (s.popRaw ch).lastServed = s.lastServed := (popRaw_keeps s ch).lastServed
@[simp] theorem popRaw_eventQueue (ch : Channel) : (s.popRaw ch).eventQueue = s.eventQueue := (popRaw_keeps s ch).eventQueue rfl
@[simp] theorem popRaw_eventLevels (ch : Channel) : (s.popRaw ch).eventLevels = s.eventLevels := (popRaw_keeps s ch).eventLevels
@[simp] theorem popRaw_outputs (ch : Channel) : (s.popRaw ch).outputs = s.outputs := (popRaw_keeps s ch).outputs rfl
@[simp] theorem popRaw_staging (ch : Channel) : (s.popRaw ch).staging = s.staging := (popRaw_keeps s ch).staging
@[simp] theorem popRaw_operand (ch : Channel) : (s.popRaw ch).operand = s.operand := (popRaw_keeps s ch).operand
@[simp] theorem popRaw_pendingCommand (ch : Channel) : (s.popRaw ch).pendingCommand = s.pendingCommand := (popRaw_keeps s ch).pendingCommand
@[simp] theorem popRaw_compacting (ch : Channel) : (s.popRaw ch).compacting = s.compacting := (popRaw_keeps s ch).compacting rfl
@[simp] theorem popRaw_arbiterMode (ch : Channel) : (s.popRaw ch).arbiterMode = s.arbiterMode := (popRaw_keeps s ch).arbiterMode
@[simp] theorem popRaw_grant (ch : Channel) : (s.popRaw ch).grant = s.grant := (popRaw_keeps s ch).grant rfl
@[simp] theorem popRaw_timeBase (ch : Channel) : (s.popRaw ch).timeBase = s.timeBase := (popRaw_keeps s ch).timeBase
@[simp] theorem popRaw_chanSel (ch : Channel) : (s.popRaw ch).chanSel = s.chanSel := (popRaw_keeps s ch).chanSel
@[simp] theorem popRaw_configAddr (ch : Channel) : (s.popRaw ch).configAddr = s.configAddr := (popRaw_keeps s ch).configAddr
@[simp] theorem popRaw_pending (ch : Channel) : (s.popRaw ch).pending = s.pending := (popRaw_keeps s ch).pending
@[simp] theorem ser_popRaw (ch : Channel) (j : SerialChannel) : (s.popRaw ch).ser j = s.ser j := by simp [State.ser]
@[simp] theorem line_popRaw (ch : Channel) (j : LineNum) : (s.popRaw ch).line j = s.line j := by simp [State.line]
@[simp] theorem slot_popRaw (ch : Channel) (j : PatternNum) : (s.popRaw ch).slot j = s.slot j := by simp [State.slot]
@[simp] theorem output_popRaw (ch : Channel) (j : OutputNum) : (s.popRaw ch).output j = s.output j := by simp [State.output]

/-! ## removeLockouts -/

@[simp] theorem removeLockouts_inReset (n : PatternNum) : (s.removeLockouts n).inReset = s.inReset := (removeLockouts_keeps s n).inReset
@[simp] theorem removeLockouts_serial (n : PatternNum) : (s.removeLockouts n).serial = s.serial := (removeLockouts_keeps s n).serial rfl
@[simp] theorem removeLockouts_lines (n : PatternNum) : (s.removeLockouts n).lines = s.lines := (removeLockouts_keeps s n).lines rfl
@[simp] theorem removeLockouts_debounce (n : PatternNum) : (s.removeLockouts n).debounce = s.debounce := (removeLockouts_keeps s n).debounce
@[simp] theorem removeLockouts_slots (n : PatternNum) : (s.removeLockouts n).slots = s.slots := (removeLockouts_keeps s n).slots rfl
@[simp] theorem removeLockouts_pool (n : PatternNum) : (s.removeLockouts n).pool = s.pool := (removeLockouts_keeps s n).pool rfl
@[simp] theorem removeLockouts_lastServed (n : PatternNum) : (s.removeLockouts n).lastServed = s.lastServed := (removeLockouts_keeps s n).lastServed
@[simp] theorem removeLockouts_eventQueue (n : PatternNum) : (s.removeLockouts n).eventQueue = s.eventQueue := (removeLockouts_keeps s n).eventQueue rfl
@[simp] theorem removeLockouts_eventLevels (n : PatternNum) : (s.removeLockouts n).eventLevels = s.eventLevels := (removeLockouts_keeps s n).eventLevels
@[simp] theorem removeLockouts_outputs (n : PatternNum) : (s.removeLockouts n).outputs = s.outputs := (removeLockouts_keeps s n).outputs rfl
@[simp] theorem removeLockouts_staging (n : PatternNum) : (s.removeLockouts n).staging = s.staging := (removeLockouts_keeps s n).staging
@[simp] theorem removeLockouts_operand (n : PatternNum) : (s.removeLockouts n).operand = s.operand := (removeLockouts_keeps s n).operand
@[simp] theorem removeLockouts_pendingCommand (n : PatternNum) : (s.removeLockouts n).pendingCommand = s.pendingCommand := (removeLockouts_keeps s n).pendingCommand
@[simp] theorem removeLockouts_compacting (n : PatternNum) : (s.removeLockouts n).compacting = s.compacting := (removeLockouts_keeps s n).compacting rfl
@[simp] theorem removeLockouts_arbiterMode (n : PatternNum) : (s.removeLockouts n).arbiterMode = s.arbiterMode := (removeLockouts_keeps s n).arbiterMode
@[simp] theorem removeLockouts_grant (n : PatternNum) : (s.removeLockouts n).grant = s.grant := (removeLockouts_keeps s n).grant rfl
@[simp] theorem removeLockouts_timeBase (n : PatternNum) : (s.removeLockouts n).timeBase = s.timeBase := (removeLockouts_keeps s n).timeBase
@[simp] theorem removeLockouts_chanSel (n : PatternNum) : (s.removeLockouts n).chanSel = s.chanSel := (removeLockouts_keeps s n).chanSel
@[simp] theorem removeLockouts_configAddr (n : PatternNum) : (s.removeLockouts n).configAddr = s.configAddr := (removeLockouts_keeps s n).configAddr
@[simp] theorem removeLockouts_pending (n : PatternNum) : (s.removeLockouts n).pending = s.pending := (removeLockouts_keeps s n).pending
@[simp] theorem ser_removeLockouts (n : PatternNum) (j : SerialChannel) : (s.removeLockouts n).ser j = s.ser j := by simp [State.ser]
@[simp] theorem line_removeLockouts (n : PatternNum) (j : LineNum) : (s.removeLockouts n).line j = s.line j := by simp [State.line]
@[simp] theorem slot_removeLockouts (n : PatternNum) (j : PatternNum) : (s.removeLockouts n).slot j = s.slot j := by simp [State.slot]
@[simp] theorem output_removeLockouts (n : PatternNum) (j : OutputNum) : (s.removeLockouts n).output j = s.output j := by simp [State.output]

/-! ## cancelPattern -/

@[simp] theorem cancelPattern_inReset (n : PatternNum) : (s.cancelPattern n).inReset = s.inReset := (cancelPattern_keeps s n).inReset
@[simp] theorem cancelPattern_serial (n : PatternNum) : (s.cancelPattern n).serial = s.serial := (cancelPattern_keeps s n).serial rfl
@[simp] theorem cancelPattern_lines (n : PatternNum) : (s.cancelPattern n).lines = s.lines := (cancelPattern_keeps s n).lines rfl
@[simp] theorem cancelPattern_debounce (n : PatternNum) : (s.cancelPattern n).debounce = s.debounce := (cancelPattern_keeps s n).debounce
@[simp] theorem cancelPattern_slots (n : PatternNum) : (s.cancelPattern n).slots = s.slots := (cancelPattern_keeps s n).slots rfl
@[simp] theorem cancelPattern_pool (n : PatternNum) : (s.cancelPattern n).pool = s.pool := (cancelPattern_keeps s n).pool rfl
@[simp] theorem cancelPattern_lastServed (n : PatternNum) : (s.cancelPattern n).lastServed = s.lastServed := (cancelPattern_keeps s n).lastServed
@[simp] theorem cancelPattern_eventQueue (n : PatternNum) : (s.cancelPattern n).eventQueue = s.eventQueue := (cancelPattern_keeps s n).eventQueue rfl
@[simp] theorem cancelPattern_eventLevels (n : PatternNum) : (s.cancelPattern n).eventLevels = s.eventLevels := (cancelPattern_keeps s n).eventLevels
@[simp] theorem cancelPattern_outputs (n : PatternNum) : (s.cancelPattern n).outputs = s.outputs := (cancelPattern_keeps s n).outputs rfl
@[simp] theorem cancelPattern_staging (n : PatternNum) : (s.cancelPattern n).staging = s.staging := (cancelPattern_keeps s n).staging
@[simp] theorem cancelPattern_operand (n : PatternNum) : (s.cancelPattern n).operand = s.operand := (cancelPattern_keeps s n).operand
@[simp] theorem cancelPattern_pendingCommand (n : PatternNum) : (s.cancelPattern n).pendingCommand = s.pendingCommand := (cancelPattern_keeps s n).pendingCommand
@[simp] theorem cancelPattern_compacting (n : PatternNum) : (s.cancelPattern n).compacting = s.compacting := (cancelPattern_keeps s n).compacting rfl
@[simp] theorem cancelPattern_arbiterMode (n : PatternNum) : (s.cancelPattern n).arbiterMode = s.arbiterMode := (cancelPattern_keeps s n).arbiterMode
@[simp] theorem cancelPattern_grant (n : PatternNum) : (s.cancelPattern n).grant = s.grant := (cancelPattern_keeps s n).grant rfl
@[simp] theorem cancelPattern_timeBase (n : PatternNum) : (s.cancelPattern n).timeBase = s.timeBase := (cancelPattern_keeps s n).timeBase
@[simp] theorem cancelPattern_chanSel (n : PatternNum) : (s.cancelPattern n).chanSel = s.chanSel := (cancelPattern_keeps s n).chanSel
@[simp] theorem cancelPattern_configAddr (n : PatternNum) : (s.cancelPattern n).configAddr = s.configAddr := (cancelPattern_keeps s n).configAddr
@[simp] theorem cancelPattern_pending (n : PatternNum) : (s.cancelPattern n).pending = s.pending := (cancelPattern_keeps s n).pending
@[simp] theorem ser_cancelPattern (n : PatternNum) (j : SerialChannel) : (s.cancelPattern n).ser j = s.ser j := by simp [State.ser]
@[simp] theorem line_cancelPattern (n : PatternNum) (j : LineNum) : (s.cancelPattern n).line j = s.line j := by simp [State.line]
@[simp] theorem slot_cancelPattern (n : PatternNum) (j : PatternNum) : (s.cancelPattern n).slot j = s.slot j := by simp [State.slot]
@[simp] theorem output_cancelPattern (n : PatternNum) (j : OutputNum) : (s.cancelPattern n).output j = s.output j := by simp [State.output]

/-! ## leaveArmed -/

@[simp] theorem leaveArmed_inReset (n : PatternNum) : (s.leaveArmed n).inReset = s.inReset := (leaveArmed_keeps s n).inReset
@[simp] theorem leaveArmed_serial (n : PatternNum) : (s.leaveArmed n).serial = s.serial := (leaveArmed_keeps s n).serial rfl
@[simp] theorem leaveArmed_lines (n : PatternNum) : (s.leaveArmed n).lines = s.lines := (leaveArmed_keeps s n).lines rfl
@[simp] theorem leaveArmed_debounce (n : PatternNum) : (s.leaveArmed n).debounce = s.debounce := (leaveArmed_keeps s n).debounce
@[simp] theorem leaveArmed_pool (n : PatternNum) : (s.leaveArmed n).pool = s.pool := (leaveArmed_keeps s n).pool rfl
@[simp] theorem leaveArmed_lastServed (n : PatternNum) : (s.leaveArmed n).lastServed = s.lastServed := (leaveArmed_keeps s n).lastServed
@[simp] theorem leaveArmed_eventQueue (n : PatternNum) : (s.leaveArmed n).eventQueue = s.eventQueue := (leaveArmed_keeps s n).eventQueue rfl
@[simp] theorem leaveArmed_eventLevels (n : PatternNum) : (s.leaveArmed n).eventLevels = s.eventLevels := (leaveArmed_keeps s n).eventLevels
@[simp] theorem leaveArmed_outputs (n : PatternNum) : (s.leaveArmed n).outputs = s.outputs := (leaveArmed_keeps s n).outputs rfl
@[simp] theorem leaveArmed_staging (n : PatternNum) : (s.leaveArmed n).staging = s.staging := (leaveArmed_keeps s n).staging
@[simp] theorem leaveArmed_operand (n : PatternNum) : (s.leaveArmed n).operand = s.operand := (leaveArmed_keeps s n).operand
@[simp] theorem leaveArmed_pendingCommand (n : PatternNum) : (s.leaveArmed n).pendingCommand = s.pendingCommand := (leaveArmed_keeps s n).pendingCommand
@[simp] theorem leaveArmed_compacting (n : PatternNum) : (s.leaveArmed n).compacting = s.compacting := (leaveArmed_keeps s n).compacting rfl
@[simp] theorem leaveArmed_arbiterMode (n : PatternNum) : (s.leaveArmed n).arbiterMode = s.arbiterMode := (leaveArmed_keeps s n).arbiterMode
@[simp] theorem leaveArmed_grant (n : PatternNum) : (s.leaveArmed n).grant = s.grant := (leaveArmed_keeps s n).grant rfl
@[simp] theorem leaveArmed_timeBase (n : PatternNum) : (s.leaveArmed n).timeBase = s.timeBase := (leaveArmed_keeps s n).timeBase
@[simp] theorem leaveArmed_chanSel (n : PatternNum) : (s.leaveArmed n).chanSel = s.chanSel := (leaveArmed_keeps s n).chanSel
@[simp] theorem leaveArmed_configAddr (n : PatternNum) : (s.leaveArmed n).configAddr = s.configAddr := (leaveArmed_keeps s n).configAddr
@[simp] theorem leaveArmed_pending (n : PatternNum) : (s.leaveArmed n).pending = s.pending := (leaveArmed_keeps s n).pending
@[simp] theorem ser_leaveArmed (n : PatternNum) (j : SerialChannel) : (s.leaveArmed n).ser j = s.ser j := by simp [State.ser]
@[simp] theorem line_leaveArmed (n : PatternNum) (j : LineNum) : (s.leaveArmed n).line j = s.line j := by simp [State.line]
@[simp] theorem output_leaveArmed (n : PatternNum) (j : OutputNum) : (s.leaveArmed n).output j = s.output j := by simp [State.output]

/-! ## loseSymbol -/

@[simp] theorem loseSymbol_inReset (ch : Channel) (x : Symbol) : (s.loseSymbol ch x).inReset = s.inReset := (loseSymbol_keeps s ch x).inReset
@[simp] theorem loseSymbol_serial (ch : Channel) (x : Symbol) : (s.loseSymbol ch x).serial = s.serial := (loseSymbol_keeps s ch x).serial rfl
@[simp] theorem loseSymbol_lines (ch : Channel) (x : Symbol) : (s.loseSymbol ch x).lines = s.lines := (loseSymbol_keeps s ch x).lines rfl
@[simp] theorem loseSymbol_debounce (ch : Channel) (x : Symbol) : (s.loseSymbol ch x).debounce = s.debounce := (loseSymbol_keeps s ch x).debounce
@[simp] theorem loseSymbol_slots (ch : Channel) (x : Symbol) : (s.loseSymbol ch x).slots = s.slots := (loseSymbol_keeps s ch x).slots rfl
@[simp] theorem loseSymbol_pool (ch : Channel) (x : Symbol) : (s.loseSymbol ch x).pool = s.pool := (loseSymbol_keeps s ch x).pool rfl
@[simp] theorem loseSymbol_lastServed (ch : Channel) (x : Symbol) : (s.loseSymbol ch x).lastServed = s.lastServed := (loseSymbol_keeps s ch x).lastServed
@[simp] theorem loseSymbol_eventLevels (ch : Channel) (x : Symbol) : (s.loseSymbol ch x).eventLevels = s.eventLevels := (loseSymbol_keeps s ch x).eventLevels
@[simp] theorem loseSymbol_outputs (ch : Channel) (x : Symbol) : (s.loseSymbol ch x).outputs = s.outputs := (loseSymbol_keeps s ch x).outputs rfl
@[simp] theorem loseSymbol_staging (ch : Channel) (x : Symbol) : (s.loseSymbol ch x).staging = s.staging := (loseSymbol_keeps s ch x).staging
@[simp] theorem loseSymbol_operand (ch : Channel) (x : Symbol) : (s.loseSymbol ch x).operand = s.operand := (loseSymbol_keeps s ch x).operand
@[simp] theorem loseSymbol_pendingCommand (ch : Channel) (x : Symbol) : (s.loseSymbol ch x).pendingCommand = s.pendingCommand := (loseSymbol_keeps s ch x).pendingCommand
@[simp] theorem loseSymbol_compacting (ch : Channel) (x : Symbol) : (s.loseSymbol ch x).compacting = s.compacting := (loseSymbol_keeps s ch x).compacting rfl
@[simp] theorem loseSymbol_arbiterMode (ch : Channel) (x : Symbol) : (s.loseSymbol ch x).arbiterMode = s.arbiterMode := (loseSymbol_keeps s ch x).arbiterMode
@[simp] theorem loseSymbol_grant (ch : Channel) (x : Symbol) : (s.loseSymbol ch x).grant = s.grant := (loseSymbol_keeps s ch x).grant rfl
@[simp] theorem loseSymbol_timeBase (ch : Channel) (x : Symbol) : (s.loseSymbol ch x).timeBase = s.timeBase := (loseSymbol_keeps s ch x).timeBase
@[simp] theorem loseSymbol_chanSel (ch : Channel) (x : Symbol) : (s.loseSymbol ch x).chanSel = s.chanSel := (loseSymbol_keeps s ch x).chanSel
@[simp] theorem loseSymbol_configAddr (ch : Channel) (x : Symbol) : (s.loseSymbol ch x).configAddr = s.configAddr := (loseSymbol_keeps s ch x).configAddr
@[simp] theorem loseSymbol_pending (ch : Channel) (x : Symbol) : (s.loseSymbol ch x).pending = s.pending := (loseSymbol_keeps s ch x).pending
@[simp] theorem ser_loseSymbol (ch : Channel) (x : Symbol) (j : SerialChannel) : (s.loseSymbol ch x).ser j = s.ser j := by simp [State.ser]
@[simp] theorem line_loseSymbol (ch : Channel) (x : Symbol) (j : LineNum) : (s.loseSymbol ch x).line j = s.line j := by simp [State.line]
@[simp] theorem slot_loseSymbol (ch : Channel) (x : Symbol) (j : PatternNum) : (s.loseSymbol ch x).slot j = s.slot j := by simp [State.slot]
@[simp] theorem output_loseSymbol (ch : Channel) (x : Symbol) (j : OutputNum) : (s.loseSymbol ch x).output j = s.output j := by simp [State.output]

/-! ## cancelOldestSwallowing -/

@[simp] theorem cancelOldestSwallowing_inReset (ch : Channel) (t : Time) : (s.cancelOldestSwallowing ch t).inReset = s.inReset := (cancelOldestSwallowing_keeps s ch t).inReset
@[simp] theorem cancelOldestSwallowing_serial (ch : Channel) (t : Time) : (s.cancelOldestSwallowing ch t).serial = s.serial := (cancelOldestSwallowing_keeps s ch t).serial rfl
@[simp] theorem cancelOldestSwallowing_lines (ch : Channel) (t : Time) : (s.cancelOldestSwallowing ch t).lines = s.lines := (cancelOldestSwallowing_keeps s ch t).lines rfl
@[simp] theorem cancelOldestSwallowing_debounce (ch : Channel) (t : Time) : (s.cancelOldestSwallowing ch t).debounce = s.debounce := (cancelOldestSwallowing_keeps s ch t).debounce
@[simp] theorem cancelOldestSwallowing_slots (ch : Channel) (t : Time) : (s.cancelOldestSwallowing ch t).slots = s.slots := (cancelOldestSwallowing_keeps s ch t).slots rfl
@[simp] theorem cancelOldestSwallowing_pool (ch : Channel) (t : Time) : (s.cancelOldestSwallowing ch t).pool = s.pool := (cancelOldestSwallowing_keeps s ch t).pool rfl
@[simp] theorem cancelOldestSwallowing_lastServed (ch : Channel) (t : Time) : (s.cancelOldestSwallowing ch t).lastServed = s.lastServed := (cancelOldestSwallowing_keeps s ch t).lastServed
@[simp] theorem cancelOldestSwallowing_eventLevels (ch : Channel) (t : Time) : (s.cancelOldestSwallowing ch t).eventLevels = s.eventLevels := (cancelOldestSwallowing_keeps s ch t).eventLevels
@[simp] theorem cancelOldestSwallowing_outputs (ch : Channel) (t : Time) : (s.cancelOldestSwallowing ch t).outputs = s.outputs := (cancelOldestSwallowing_keeps s ch t).outputs rfl
@[simp] theorem cancelOldestSwallowing_staging (ch : Channel) (t : Time) : (s.cancelOldestSwallowing ch t).staging = s.staging := (cancelOldestSwallowing_keeps s ch t).staging
@[simp] theorem cancelOldestSwallowing_operand (ch : Channel) (t : Time) : (s.cancelOldestSwallowing ch t).operand = s.operand := (cancelOldestSwallowing_keeps s ch t).operand
@[simp] theorem cancelOldestSwallowing_pendingCommand (ch : Channel) (t : Time) : (s.cancelOldestSwallowing ch t).pendingCommand = s.pendingCommand := (cancelOldestSwallowing_keeps s ch t).pendingCommand
@[simp] theorem cancelOldestSwallowing_compacting (ch : Channel) (t : Time) : (s.cancelOldestSwallowing ch t).compacting = s.compacting := (cancelOldestSwallowing_keeps s ch t).compacting rfl
@[simp] theorem cancelOldestSwallowing_arbiterMode (ch : Channel) (t : Time) : (s.cancelOldestSwallowing ch t).arbiterMode = s.arbiterMode := (cancelOldestSwallowing_keeps s ch t).arbiterMode
@[simp] theorem cancelOldestSwallowing_grant (ch : Channel) (t : Time) : (s.cancelOldestSwallowing ch t).grant = s.grant := (cancelOldestSwallowing_keeps s ch t).grant rfl
@[simp] theorem cancelOldestSwallowing_timeBase (ch : Channel) (t : Time) : (s.cancelOldestSwallowing ch t).timeBase = s.timeBase := (cancelOldestSwallowing_keeps s ch t).timeBase
@[simp] theorem cancelOldestSwallowing_chanSel (ch : Channel) (t : Time) : (s.cancelOldestSwallowing ch t).chanSel = s.chanSel := (cancelOldestSwallowing_keeps s ch t).chanSel
@[simp] theorem cancelOldestSwallowing_configAddr (ch : Channel) (t : Time) : (s.cancelOldestSwallowing ch t).configAddr = s.configAddr := (cancelOldestSwallowing_keeps s ch t).configAddr
@[simp] theorem cancelOldestSwallowing_pending (ch : Channel) (t : Time) : (s.cancelOldestSwallowing ch t).pending = s.pending := (cancelOldestSwallowing_keeps s ch t).pending
@[simp] theorem ser_cancelOldestSwallowing (ch : Channel) (t : Time) (j : SerialChannel) : (s.cancelOldestSwallowing ch t).ser j = s.ser j := by simp [State.ser]
@[simp] theorem line_cancelOldestSwallowing (ch : Channel) (t : Time) (j : LineNum) : (s.cancelOldestSwallowing ch t).line j = s.line j := by simp [State.line]
@[simp] theorem slot_cancelOldestSwallowing (ch : Channel) (t : Time) (j : PatternNum) : (s.cancelOldestSwallowing ch t).slot j = s.slot j := by simp [State.slot]
@[simp] theorem output_cancelOldestSwallowing (ch : Channel) (t : Time) (j : OutputNum) : (s.cancelOldestSwallowing ch t).output j = s.output j := by simp [State.output]

/-! ## enforceHold -/

@[simp] theorem enforceHold_inReset (ch : Channel) (t : Time) (n : Nat) : (s.enforceHold ch t n).inReset = s.inReset := (enforceHold_keeps s ch t n).inReset
@[simp] theorem enforceHold_serial (ch : Channel) (t : Time) (n : Nat) : (s.enforceHold ch t n).serial = s.serial := (enforceHold_keeps s ch t n).serial rfl
@[simp] theorem enforceHold_lines (ch : Channel) (t : Time) (n : Nat) : (s.enforceHold ch t n).lines = s.lines := (enforceHold_keeps s ch t n).lines rfl
@[simp] theorem enforceHold_debounce (ch : Channel) (t : Time) (n : Nat) : (s.enforceHold ch t n).debounce = s.debounce := (enforceHold_keeps s ch t n).debounce
@[simp] theorem enforceHold_slots (ch : Channel) (t : Time) (n : Nat) : (s.enforceHold ch t n).slots = s.slots := (enforceHold_keeps s ch t n).slots rfl
@[simp] theorem enforceHold_pool (ch : Channel) (t : Time) (n : Nat) : (s.enforceHold ch t n).pool = s.pool := (enforceHold_keeps s ch t n).pool rfl
@[simp] theorem enforceHold_lastServed (ch : Channel) (t : Time) (n : Nat) : (s.enforceHold ch t n).lastServed = s.lastServed := (enforceHold_keeps s ch t n).lastServed
@[simp] theorem enforceHold_eventLevels (ch : Channel) (t : Time) (n : Nat) : (s.enforceHold ch t n).eventLevels = s.eventLevels := (enforceHold_keeps s ch t n).eventLevels
@[simp] theorem enforceHold_outputs (ch : Channel) (t : Time) (n : Nat) : (s.enforceHold ch t n).outputs = s.outputs := (enforceHold_keeps s ch t n).outputs rfl
@[simp] theorem enforceHold_staging (ch : Channel) (t : Time) (n : Nat) : (s.enforceHold ch t n).staging = s.staging := (enforceHold_keeps s ch t n).staging
@[simp] theorem enforceHold_operand (ch : Channel) (t : Time) (n : Nat) : (s.enforceHold ch t n).operand = s.operand := (enforceHold_keeps s ch t n).operand
@[simp] theorem enforceHold_pendingCommand (ch : Channel) (t : Time) (n : Nat) : (s.enforceHold ch t n).pendingCommand = s.pendingCommand := (enforceHold_keeps s ch t n).pendingCommand
@[simp] theorem enforceHold_compacting (ch : Channel) (t : Time) (n : Nat) : (s.enforceHold ch t n).compacting = s.compacting := (enforceHold_keeps s ch t n).compacting rfl
@[simp] theorem enforceHold_arbiterMode (ch : Channel) (t : Time) (n : Nat) : (s.enforceHold ch t n).arbiterMode = s.arbiterMode := (enforceHold_keeps s ch t n).arbiterMode
@[simp] theorem enforceHold_grant (ch : Channel) (t : Time) (n : Nat) : (s.enforceHold ch t n).grant = s.grant := (enforceHold_keeps s ch t n).grant rfl
@[simp] theorem enforceHold_timeBase (ch : Channel) (t : Time) (n : Nat) : (s.enforceHold ch t n).timeBase = s.timeBase := (enforceHold_keeps s ch t n).timeBase
@[simp] theorem enforceHold_chanSel (ch : Channel) (t : Time) (n : Nat) : (s.enforceHold ch t n).chanSel = s.chanSel := (enforceHold_keeps s ch t n).chanSel
@[simp] theorem enforceHold_configAddr (ch : Channel) (t : Time) (n : Nat) : (s.enforceHold ch t n).configAddr = s.configAddr := (enforceHold_keeps s ch t n).configAddr
@[simp] theorem enforceHold_pending (ch : Channel) (t : Time) (n : Nat) : (s.enforceHold ch t n).pending = s.pending := (enforceHold_keeps s ch t n).pending
@[simp] theorem ser_enforceHold (ch : Channel) (t : Time) (n : Nat) (j : SerialChannel) : (s.enforceHold ch t n).ser j = s.ser j := by simp [State.ser]
@[simp] theorem line_enforceHold (ch : Channel) (t : Time) (n : Nat) (j : LineNum) : (s.enforceHold ch t n).line j = s.line j := by simp [State.line]
@[simp] theorem slot_enforceHold (ch : Channel) (t : Time) (n : Nat) (j : PatternNum) : (s.enforceHold ch t n).slot j = s.slot j := by simp [State.slot]
@[simp] theorem output_enforceHold (ch : Channel) (t : Time) (n : Nat) (j : OutputNum) : (s.enforceHold ch t n).output j = s.output j := by simp [State.output]

/-! ## appendSymbol -/

@[simp] theorem appendSymbol_inReset (ch : Channel) (x : Symbol) : (s.appendSymbol ch x).inReset = s.inReset := (appendSymbol_keeps s ch x).inReset
@[simp] theorem appendSymbol_serial (ch : Channel) (x : Symbol) : (s.appendSymbol ch x).serial = s.serial := (appendSymbol_keeps s ch x).serial rfl
@[simp] theorem appendSymbol_lines (ch : Channel) (x : Symbol) : (s.appendSymbol ch x).lines = s.lines := (appendSymbol_keeps s ch x).lines rfl
@[simp] theorem appendSymbol_debounce (ch : Channel) (x : Symbol) : (s.appendSymbol ch x).debounce = s.debounce := (appendSymbol_keeps s ch x).debounce
@[simp] theorem appendSymbol_slots (ch : Channel) (x : Symbol) : (s.appendSymbol ch x).slots = s.slots := (appendSymbol_keeps s ch x).slots rfl
@[simp] theorem appendSymbol_pool (ch : Channel) (x : Symbol) : (s.appendSymbol ch x).pool = s.pool := (appendSymbol_keeps s ch x).pool rfl
@[simp] theorem appendSymbol_lastServed (ch : Channel) (x : Symbol) : (s.appendSymbol ch x).lastServed = s.lastServed := (appendSymbol_keeps s ch x).lastServed
@[simp] theorem appendSymbol_eventLevels (ch : Channel) (x : Symbol) : (s.appendSymbol ch x).eventLevels = s.eventLevels := (appendSymbol_keeps s ch x).eventLevels
@[simp] theorem appendSymbol_outputs (ch : Channel) (x : Symbol) : (s.appendSymbol ch x).outputs = s.outputs := (appendSymbol_keeps s ch x).outputs rfl
@[simp] theorem appendSymbol_staging (ch : Channel) (x : Symbol) : (s.appendSymbol ch x).staging = s.staging := (appendSymbol_keeps s ch x).staging
@[simp] theorem appendSymbol_operand (ch : Channel) (x : Symbol) : (s.appendSymbol ch x).operand = s.operand := (appendSymbol_keeps s ch x).operand
@[simp] theorem appendSymbol_pendingCommand (ch : Channel) (x : Symbol) : (s.appendSymbol ch x).pendingCommand = s.pendingCommand := (appendSymbol_keeps s ch x).pendingCommand
@[simp] theorem appendSymbol_compacting (ch : Channel) (x : Symbol) : (s.appendSymbol ch x).compacting = s.compacting := (appendSymbol_keeps s ch x).compacting rfl
@[simp] theorem appendSymbol_arbiterMode (ch : Channel) (x : Symbol) : (s.appendSymbol ch x).arbiterMode = s.arbiterMode := (appendSymbol_keeps s ch x).arbiterMode
@[simp] theorem appendSymbol_grant (ch : Channel) (x : Symbol) : (s.appendSymbol ch x).grant = s.grant := (appendSymbol_keeps s ch x).grant rfl
@[simp] theorem appendSymbol_timeBase (ch : Channel) (x : Symbol) : (s.appendSymbol ch x).timeBase = s.timeBase := (appendSymbol_keeps s ch x).timeBase
@[simp] theorem appendSymbol_chanSel (ch : Channel) (x : Symbol) : (s.appendSymbol ch x).chanSel = s.chanSel := (appendSymbol_keeps s ch x).chanSel
@[simp] theorem appendSymbol_configAddr (ch : Channel) (x : Symbol) : (s.appendSymbol ch x).configAddr = s.configAddr := (appendSymbol_keeps s ch x).configAddr
@[simp] theorem appendSymbol_pending (ch : Channel) (x : Symbol) : (s.appendSymbol ch x).pending = s.pending := (appendSymbol_keeps s ch x).pending
@[simp] theorem ser_appendSymbol (ch : Channel) (x : Symbol) (j : SerialChannel) : (s.appendSymbol ch x).ser j = s.ser j := by simp [State.ser]
@[simp] theorem line_appendSymbol (ch : Channel) (x : Symbol) (j : LineNum) : (s.appendSymbol ch x).line j = s.line j := by simp [State.line]
@[simp] theorem slot_appendSymbol (ch : Channel) (x : Symbol) (j : PatternNum) : (s.appendSymbol ch x).slot j = s.slot j := by simp [State.slot]
@[simp] theorem output_appendSymbol (ch : Channel) (x : Symbol) (j : OutputNum) : (s.appendSymbol ch x).output j = s.output j := by simp [State.output]

/-! ## storeSymbol -/

@[simp] theorem storeSymbol_inReset (ch : Channel) (x : Symbol) : (s.storeSymbol ch x).inReset = s.inReset := (storeSymbol_keeps s ch x).inReset
@[simp] theorem storeSymbol_serial (ch : Channel) (x : Symbol) : (s.storeSymbol ch x).serial = s.serial := (storeSymbol_keeps s ch x).serial rfl
@[simp] theorem storeSymbol_lines (ch : Channel) (x : Symbol) : (s.storeSymbol ch x).lines = s.lines := (storeSymbol_keeps s ch x).lines rfl
@[simp] theorem storeSymbol_debounce (ch : Channel) (x : Symbol) : (s.storeSymbol ch x).debounce = s.debounce := (storeSymbol_keeps s ch x).debounce
@[simp] theorem storeSymbol_slots (ch : Channel) (x : Symbol) : (s.storeSymbol ch x).slots = s.slots := (storeSymbol_keeps s ch x).slots rfl
@[simp] theorem storeSymbol_pool (ch : Channel) (x : Symbol) : (s.storeSymbol ch x).pool = s.pool := (storeSymbol_keeps s ch x).pool rfl
@[simp] theorem storeSymbol_lastServed (ch : Channel) (x : Symbol) : (s.storeSymbol ch x).lastServed = s.lastServed := (storeSymbol_keeps s ch x).lastServed
@[simp] theorem storeSymbol_eventLevels (ch : Channel) (x : Symbol) : (s.storeSymbol ch x).eventLevels = s.eventLevels := (storeSymbol_keeps s ch x).eventLevels
@[simp] theorem storeSymbol_outputs (ch : Channel) (x : Symbol) : (s.storeSymbol ch x).outputs = s.outputs := (storeSymbol_keeps s ch x).outputs rfl
@[simp] theorem storeSymbol_staging (ch : Channel) (x : Symbol) : (s.storeSymbol ch x).staging = s.staging := (storeSymbol_keeps s ch x).staging
@[simp] theorem storeSymbol_operand (ch : Channel) (x : Symbol) : (s.storeSymbol ch x).operand = s.operand := (storeSymbol_keeps s ch x).operand
@[simp] theorem storeSymbol_pendingCommand (ch : Channel) (x : Symbol) : (s.storeSymbol ch x).pendingCommand = s.pendingCommand := (storeSymbol_keeps s ch x).pendingCommand
@[simp] theorem storeSymbol_compacting (ch : Channel) (x : Symbol) : (s.storeSymbol ch x).compacting = s.compacting := (storeSymbol_keeps s ch x).compacting rfl
@[simp] theorem storeSymbol_arbiterMode (ch : Channel) (x : Symbol) : (s.storeSymbol ch x).arbiterMode = s.arbiterMode := (storeSymbol_keeps s ch x).arbiterMode
@[simp] theorem storeSymbol_grant (ch : Channel) (x : Symbol) : (s.storeSymbol ch x).grant = s.grant := (storeSymbol_keeps s ch x).grant rfl
@[simp] theorem storeSymbol_timeBase (ch : Channel) (x : Symbol) : (s.storeSymbol ch x).timeBase = s.timeBase := (storeSymbol_keeps s ch x).timeBase
@[simp] theorem storeSymbol_chanSel (ch : Channel) (x : Symbol) : (s.storeSymbol ch x).chanSel = s.chanSel := (storeSymbol_keeps s ch x).chanSel
@[simp] theorem storeSymbol_configAddr (ch : Channel) (x : Symbol) : (s.storeSymbol ch x).configAddr = s.configAddr := (storeSymbol_keeps s ch x).configAddr
@[simp] theorem storeSymbol_pending (ch : Channel) (x : Symbol) : (s.storeSymbol ch x).pending = s.pending := (storeSymbol_keeps s ch x).pending
@[simp] theorem ser_storeSymbol (ch : Channel) (x : Symbol) (j : SerialChannel) : (s.storeSymbol ch x).ser j = s.ser j := by simp [State.ser]
@[simp] theorem line_storeSymbol (ch : Channel) (x : Symbol) (j : LineNum) : (s.storeSymbol ch x).line j = s.line j := by simp [State.line]
@[simp] theorem slot_storeSymbol (ch : Channel) (x : Symbol) (j : PatternNum) : (s.storeSymbol ch x).slot j = s.slot j := by simp [State.slot]
@[simp] theorem output_storeSymbol (ch : Channel) (x : Symbol) (j : OutputNum) : (s.storeSymbol ch x).output j = s.output j := by simp [State.output]

/-! ## deliver -/

@[simp] theorem deliver_inReset (ch : Channel) (x : Symbol) : (s.deliver ch x).inReset = s.inReset := (deliver_keeps s ch x).inReset
@[simp] theorem deliver_serial (ch : Channel) (x : Symbol) : (s.deliver ch x).serial = s.serial := (deliver_keeps s ch x).serial rfl
@[simp] theorem deliver_lines (ch : Channel) (x : Symbol) : (s.deliver ch x).lines = s.lines := (deliver_keeps s ch x).lines rfl
@[simp] theorem deliver_debounce (ch : Channel) (x : Symbol) : (s.deliver ch x).debounce = s.debounce := (deliver_keeps s ch x).debounce
@[simp] theorem deliver_slots (ch : Channel) (x : Symbol) : (s.deliver ch x).slots = s.slots := (deliver_keeps s ch x).slots rfl
@[simp] theorem deliver_pool (ch : Channel) (x : Symbol) : (s.deliver ch x).pool = s.pool := (deliver_keeps s ch x).pool rfl
@[simp] theorem deliver_lastServed (ch : Channel) (x : Symbol) : (s.deliver ch x).lastServed = s.lastServed := (deliver_keeps s ch x).lastServed
@[simp] theorem deliver_eventLevels (ch : Channel) (x : Symbol) : (s.deliver ch x).eventLevels = s.eventLevels := (deliver_keeps s ch x).eventLevels
@[simp] theorem deliver_outputs (ch : Channel) (x : Symbol) : (s.deliver ch x).outputs = s.outputs := (deliver_keeps s ch x).outputs rfl
@[simp] theorem deliver_staging (ch : Channel) (x : Symbol) : (s.deliver ch x).staging = s.staging := (deliver_keeps s ch x).staging
@[simp] theorem deliver_operand (ch : Channel) (x : Symbol) : (s.deliver ch x).operand = s.operand := (deliver_keeps s ch x).operand
@[simp] theorem deliver_pendingCommand (ch : Channel) (x : Symbol) : (s.deliver ch x).pendingCommand = s.pendingCommand := (deliver_keeps s ch x).pendingCommand
@[simp] theorem deliver_compacting (ch : Channel) (x : Symbol) : (s.deliver ch x).compacting = s.compacting := (deliver_keeps s ch x).compacting rfl
@[simp] theorem deliver_arbiterMode (ch : Channel) (x : Symbol) : (s.deliver ch x).arbiterMode = s.arbiterMode := (deliver_keeps s ch x).arbiterMode
@[simp] theorem deliver_grant (ch : Channel) (x : Symbol) : (s.deliver ch x).grant = s.grant := (deliver_keeps s ch x).grant rfl
@[simp] theorem deliver_timeBase (ch : Channel) (x : Symbol) : (s.deliver ch x).timeBase = s.timeBase := (deliver_keeps s ch x).timeBase
@[simp] theorem deliver_chanSel (ch : Channel) (x : Symbol) : (s.deliver ch x).chanSel = s.chanSel := (deliver_keeps s ch x).chanSel
@[simp] theorem deliver_configAddr (ch : Channel) (x : Symbol) : (s.deliver ch x).configAddr = s.configAddr := (deliver_keeps s ch x).configAddr
@[simp] theorem deliver_pending (ch : Channel) (x : Symbol) : (s.deliver ch x).pending = s.pending := (deliver_keeps s ch x).pending
@[simp] theorem ser_deliver (ch : Channel) (x : Symbol) (j : SerialChannel) : (s.deliver ch x).ser j = s.ser j := by simp [State.ser]
@[simp] theorem line_deliver (ch : Channel) (x : Symbol) (j : LineNum) : (s.deliver ch x).line j = s.line j := by simp [State.line]
@[simp] theorem slot_deliver (ch : Channel) (x : Symbol) (j : PatternNum) : (s.deliver ch x).slot j = s.slot j := by simp [State.slot]
@[simp] theorem output_deliver (ch : Channel) (x : Symbol) (j : OutputNum) : (s.deliver ch x).output j = s.output j := by simp [State.output]

/-! ## arrive -/

@[simp] theorem arrive_inReset (ch : Channel) (k : RawKind) : (s.arrive ch k).inReset = s.inReset := (arrive_keeps s ch k).inReset
@[simp] theorem arrive_serial (ch : Channel) (k : RawKind) : (s.arrive ch k).serial = s.serial := (arrive_keeps s ch k).serial rfl
@[simp] theorem arrive_lines (ch : Channel) (k : RawKind) : (s.arrive ch k).lines = s.lines := (arrive_keeps s ch k).lines rfl
@[simp] theorem arrive_debounce (ch : Channel) (k : RawKind) : (s.arrive ch k).debounce = s.debounce := (arrive_keeps s ch k).debounce
@[simp] theorem arrive_slots (ch : Channel) (k : RawKind) : (s.arrive ch k).slots = s.slots := (arrive_keeps s ch k).slots rfl
@[simp] theorem arrive_pool (ch : Channel) (k : RawKind) : (s.arrive ch k).pool = s.pool := (arrive_keeps s ch k).pool rfl
@[simp] theorem arrive_lastServed (ch : Channel) (k : RawKind) : (s.arrive ch k).lastServed = s.lastServed := (arrive_keeps s ch k).lastServed
@[simp] theorem arrive_eventLevels (ch : Channel) (k : RawKind) : (s.arrive ch k).eventLevels = s.eventLevels := (arrive_keeps s ch k).eventLevels
@[simp] theorem arrive_outputs (ch : Channel) (k : RawKind) : (s.arrive ch k).outputs = s.outputs := (arrive_keeps s ch k).outputs rfl
@[simp] theorem arrive_staging (ch : Channel) (k : RawKind) : (s.arrive ch k).staging = s.staging := (arrive_keeps s ch k).staging
@[simp] theorem arrive_operand (ch : Channel) (k : RawKind) : (s.arrive ch k).operand = s.operand := (arrive_keeps s ch k).operand
@[simp] theorem arrive_pendingCommand (ch : Channel) (k : RawKind) : (s.arrive ch k).pendingCommand = s.pendingCommand := (arrive_keeps s ch k).pendingCommand
@[simp] theorem arrive_compacting (ch : Channel) (k : RawKind) : (s.arrive ch k).compacting = s.compacting := (arrive_keeps s ch k).compacting rfl
@[simp] theorem arrive_arbiterMode (ch : Channel) (k : RawKind) : (s.arrive ch k).arbiterMode = s.arbiterMode := (arrive_keeps s ch k).arbiterMode
@[simp] theorem arrive_grant (ch : Channel) (k : RawKind) : (s.arrive ch k).grant = s.grant := (arrive_keeps s ch k).grant rfl
@[simp] theorem arrive_timeBase (ch : Channel) (k : RawKind) : (s.arrive ch k).timeBase = s.timeBase := (arrive_keeps s ch k).timeBase
@[simp] theorem arrive_chanSel (ch : Channel) (k : RawKind) : (s.arrive ch k).chanSel = s.chanSel := (arrive_keeps s ch k).chanSel
@[simp] theorem arrive_configAddr (ch : Channel) (k : RawKind) : (s.arrive ch k).configAddr = s.configAddr := (arrive_keeps s ch k).configAddr
@[simp] theorem arrive_pending (ch : Channel) (k : RawKind) : (s.arrive ch k).pending = s.pending := (arrive_keeps s ch k).pending
@[simp] theorem ser_arrive (ch : Channel) (k : RawKind) (j : SerialChannel) : (s.arrive ch k).ser j = s.ser j := by simp [State.ser]
@[simp] theorem line_arrive (ch : Channel) (k : RawKind) (j : LineNum) : (s.arrive ch k).line j = s.line j := by simp [State.line]
@[simp] theorem slot_arrive (ch : Channel) (k : RawKind) (j : PatternNum) : (s.arrive ch k).slot j = s.slot j := by simp [State.slot]
@[simp] theorem output_arrive (ch : Channel) (k : RawKind) (j : OutputNum) : (s.arrive ch k).output j = s.output j := by simp [State.output]

/-! ## placeSymbol -/

@[simp] theorem placeSymbol_inReset (ch : Channel) (x : Symbol) : (s.placeSymbol ch x).inReset = s.inReset := (placeSymbol_keeps s ch x).inReset
@[simp] theorem placeSymbol_serial (ch : Channel) (x : Symbol) : (s.placeSymbol ch x).serial = s.serial := (placeSymbol_keeps s ch x).serial rfl
@[simp] theorem placeSymbol_lines (ch : Channel) (x : Symbol) : (s.placeSymbol ch x).lines = s.lines := (placeSymbol_keeps s ch x).lines rfl
@[simp] theorem placeSymbol_debounce (ch : Channel) (x : Symbol) : (s.placeSymbol ch x).debounce = s.debounce := (placeSymbol_keeps s ch x).debounce
@[simp] theorem placeSymbol_slots (ch : Channel) (x : Symbol) : (s.placeSymbol ch x).slots = s.slots := (placeSymbol_keeps s ch x).slots rfl
@[simp] theorem placeSymbol_pool (ch : Channel) (x : Symbol) : (s.placeSymbol ch x).pool = s.pool := (placeSymbol_keeps s ch x).pool rfl
@[simp] theorem placeSymbol_lastServed (ch : Channel) (x : Symbol) : (s.placeSymbol ch x).lastServed = s.lastServed := (placeSymbol_keeps s ch x).lastServed
@[simp] theorem placeSymbol_eventLevels (ch : Channel) (x : Symbol) : (s.placeSymbol ch x).eventLevels = s.eventLevels := (placeSymbol_keeps s ch x).eventLevels
@[simp] theorem placeSymbol_outputs (ch : Channel) (x : Symbol) : (s.placeSymbol ch x).outputs = s.outputs := (placeSymbol_keeps s ch x).outputs rfl
@[simp] theorem placeSymbol_staging (ch : Channel) (x : Symbol) : (s.placeSymbol ch x).staging = s.staging := (placeSymbol_keeps s ch x).staging
@[simp] theorem placeSymbol_operand (ch : Channel) (x : Symbol) : (s.placeSymbol ch x).operand = s.operand := (placeSymbol_keeps s ch x).operand
@[simp] theorem placeSymbol_pendingCommand (ch : Channel) (x : Symbol) : (s.placeSymbol ch x).pendingCommand = s.pendingCommand := (placeSymbol_keeps s ch x).pendingCommand
@[simp] theorem placeSymbol_compacting (ch : Channel) (x : Symbol) : (s.placeSymbol ch x).compacting = s.compacting := (placeSymbol_keeps s ch x).compacting rfl
@[simp] theorem placeSymbol_arbiterMode (ch : Channel) (x : Symbol) : (s.placeSymbol ch x).arbiterMode = s.arbiterMode := (placeSymbol_keeps s ch x).arbiterMode
@[simp] theorem placeSymbol_timeBase (ch : Channel) (x : Symbol) : (s.placeSymbol ch x).timeBase = s.timeBase := (placeSymbol_keeps s ch x).timeBase
@[simp] theorem placeSymbol_chanSel (ch : Channel) (x : Symbol) : (s.placeSymbol ch x).chanSel = s.chanSel := (placeSymbol_keeps s ch x).chanSel
@[simp] theorem placeSymbol_configAddr (ch : Channel) (x : Symbol) : (s.placeSymbol ch x).configAddr = s.configAddr := (placeSymbol_keeps s ch x).configAddr
@[simp] theorem placeSymbol_pending (ch : Channel) (x : Symbol) : (s.placeSymbol ch x).pending = s.pending := (placeSymbol_keeps s ch x).pending
@[simp] theorem ser_placeSymbol (ch : Channel) (x : Symbol) (j : SerialChannel) : (s.placeSymbol ch x).ser j = s.ser j := by simp [State.ser]
@[simp] theorem line_placeSymbol (ch : Channel) (x : Symbol) (j : LineNum) : (s.placeSymbol ch x).line j = s.line j := by simp [State.line]
@[simp] theorem slot_placeSymbol (ch : Channel) (x : Symbol) (j : PatternNum) : (s.placeSymbol ch x).slot j = s.slot j := by simp [State.slot]
@[simp] theorem output_placeSymbol (ch : Channel) (x : Symbol) (j : OutputNum) : (s.placeSymbol ch x).output j = s.output j := by simp [State.output]

/-! ## makeSymbol -/

@[simp] theorem makeSymbol_inReset (ch : Channel) (x : ArrivalNum → Symbol) : (s.makeSymbol ch x).inReset = s.inReset := (makeSymbol_keeps s ch x).inReset
@[simp] theorem makeSymbol_serial (ch : Channel) (x : ArrivalNum → Symbol) : (s.makeSymbol ch x).serial = s.serial := (makeSymbol_keeps s ch x).serial rfl
@[simp] theorem makeSymbol_lines (ch : Channel) (x : ArrivalNum → Symbol) : (s.makeSymbol ch x).lines = s.lines := (makeSymbol_keeps s ch x).lines rfl
@[simp] theorem makeSymbol_debounce (ch : Channel) (x : ArrivalNum → Symbol) : (s.makeSymbol ch x).debounce = s.debounce := (makeSymbol_keeps s ch x).debounce
@[simp] theorem makeSymbol_slots (ch : Channel) (x : ArrivalNum → Symbol) : (s.makeSymbol ch x).slots = s.slots := (makeSymbol_keeps s ch x).slots rfl
@[simp] theorem makeSymbol_pool (ch : Channel) (x : ArrivalNum → Symbol) : (s.makeSymbol ch x).pool = s.pool := (makeSymbol_keeps s ch x).pool rfl
@[simp] theorem makeSymbol_lastServed (ch : Channel) (x : ArrivalNum → Symbol) : (s.makeSymbol ch x).lastServed = s.lastServed := (makeSymbol_keeps s ch x).lastServed
@[simp] theorem makeSymbol_eventLevels (ch : Channel) (x : ArrivalNum → Symbol) : (s.makeSymbol ch x).eventLevels = s.eventLevels := (makeSymbol_keeps s ch x).eventLevels
@[simp] theorem makeSymbol_outputs (ch : Channel) (x : ArrivalNum → Symbol) : (s.makeSymbol ch x).outputs = s.outputs := (makeSymbol_keeps s ch x).outputs rfl
@[simp] theorem makeSymbol_staging (ch : Channel) (x : ArrivalNum → Symbol) : (s.makeSymbol ch x).staging = s.staging := (makeSymbol_keeps s ch x).staging
@[simp] theorem makeSymbol_operand (ch : Channel) (x : ArrivalNum → Symbol) : (s.makeSymbol ch x).operand = s.operand := (makeSymbol_keeps s ch x).operand
@[simp] theorem makeSymbol_pendingCommand (ch : Channel) (x : ArrivalNum → Symbol) : (s.makeSymbol ch x).pendingCommand = s.pendingCommand := (makeSymbol_keeps s ch x).pendingCommand
@[simp] theorem makeSymbol_compacting (ch : Channel) (x : ArrivalNum → Symbol) : (s.makeSymbol ch x).compacting = s.compacting := (makeSymbol_keeps s ch x).compacting rfl
@[simp] theorem makeSymbol_arbiterMode (ch : Channel) (x : ArrivalNum → Symbol) : (s.makeSymbol ch x).arbiterMode = s.arbiterMode := (makeSymbol_keeps s ch x).arbiterMode
@[simp] theorem makeSymbol_timeBase (ch : Channel) (x : ArrivalNum → Symbol) : (s.makeSymbol ch x).timeBase = s.timeBase := (makeSymbol_keeps s ch x).timeBase
@[simp] theorem makeSymbol_chanSel (ch : Channel) (x : ArrivalNum → Symbol) : (s.makeSymbol ch x).chanSel = s.chanSel := (makeSymbol_keeps s ch x).chanSel
@[simp] theorem makeSymbol_configAddr (ch : Channel) (x : ArrivalNum → Symbol) : (s.makeSymbol ch x).configAddr = s.configAddr := (makeSymbol_keeps s ch x).configAddr
@[simp] theorem makeSymbol_pending (ch : Channel) (x : ArrivalNum → Symbol) : (s.makeSymbol ch x).pending = s.pending := (makeSymbol_keeps s ch x).pending
@[simp] theorem ser_makeSymbol (ch : Channel) (x : ArrivalNum → Symbol) (j : SerialChannel) : (s.makeSymbol ch x).ser j = s.ser j := by simp [State.ser]
@[simp] theorem line_makeSymbol (ch : Channel) (x : ArrivalNum → Symbol) (j : LineNum) : (s.makeSymbol ch x).line j = s.line j := by simp [State.line]
@[simp] theorem slot_makeSymbol (ch : Channel) (x : ArrivalNum → Symbol) (j : PatternNum) : (s.makeSymbol ch x).slot j = s.slot j := by simp [State.slot]
@[simp] theorem output_makeSymbol (ch : Channel) (x : ArrivalNum → Symbol) (j : OutputNum) : (s.makeSymbol ch x).output j = s.output j := by simp [State.output]

/-! ## discardPrefix -/

@[simp] theorem discardPrefix_inReset (i : SerialChannel) : (s.discardPrefix i).inReset = s.inReset := (discardPrefix_keeps s i).inReset
@[simp] theorem discardPrefix_lines (i : SerialChannel) : (s.discardPrefix i).lines = s.lines := (discardPrefix_keeps s i).lines rfl
@[simp] theorem discardPrefix_debounce (i : SerialChannel) : (s.discardPrefix i).debounce = s.debounce := (discardPrefix_keeps s i).debounce
@[simp] theorem discardPrefix_chans (i : SerialChannel) : (s.discardPrefix i).chans = s.chans := (discardPrefix_keeps s i).chans rfl
@[simp] theorem discardPrefix_slots (i : SerialChannel) : (s.discardPrefix i).slots = s.slots := (discardPrefix_keeps s i).slots rfl
@[simp] theorem discardPrefix_pool (i : SerialChannel) : (s.discardPrefix i).pool = s.pool := (discardPrefix_keeps s i).pool rfl
@[simp] theorem discardPrefix_lastServed (i : SerialChannel) : (s.discardPrefix i).lastServed = s.lastServed := (discardPrefix_keeps s i).lastServed
@[simp] theorem discardPrefix_eventQueue (i : SerialChannel) : (s.discardPrefix i).eventQueue = s.eventQueue := (discardPrefix_keeps s i).eventQueue rfl
@[simp] theorem discardPrefix_eventLevels (i : SerialChannel) : (s.discardPrefix i).eventLevels = s.eventLevels := (discardPrefix_keeps s i).eventLevels
@[simp] theorem discardPrefix_outputs (i : SerialChannel) : (s.discardPrefix i).outputs = s.outputs := (discardPrefix_keeps s i).outputs rfl
@[simp] theorem discardPrefix_staging (i : SerialChannel) : (s.discardPrefix i).staging = s.staging := (discardPrefix_keeps s i).staging
@[simp] theorem discardPrefix_operand (i : SerialChannel) : (s.discardPrefix i).operand = s.operand := (discardPrefix_keeps s i).operand
@[simp] theorem discardPrefix_pendingCommand (i : SerialChannel) : (s.discardPrefix i).pendingCommand = s.pendingCommand := (discardPrefix_keeps s i).pendingCommand
@[simp] theorem discardPrefix_compacting (i : SerialChannel) : (s.discardPrefix i).compacting = s.compacting := (discardPrefix_keeps s i).compacting rfl
@[simp] theorem discardPrefix_arbiterMode (i : SerialChannel) : (s.discardPrefix i).arbiterMode = s.arbiterMode := (discardPrefix_keeps s i).arbiterMode
@[simp] theorem discardPrefix_grant (i : SerialChannel) : (s.discardPrefix i).grant = s.grant := (discardPrefix_keeps s i).grant rfl
@[simp] theorem discardPrefix_timeBase (i : SerialChannel) : (s.discardPrefix i).timeBase = s.timeBase := (discardPrefix_keeps s i).timeBase
@[simp] theorem discardPrefix_chanSel (i : SerialChannel) : (s.discardPrefix i).chanSel = s.chanSel := (discardPrefix_keeps s i).chanSel
@[simp] theorem discardPrefix_configAddr (i : SerialChannel) : (s.discardPrefix i).configAddr = s.configAddr := (discardPrefix_keeps s i).configAddr
@[simp] theorem discardPrefix_pending (i : SerialChannel) : (s.discardPrefix i).pending = s.pending := (discardPrefix_keeps s i).pending
@[simp] theorem chan_discardPrefix (i : SerialChannel) (j : Channel) : (s.discardPrefix i).chan j = s.chan j := by simp [State.chan]
@[simp] theorem line_discardPrefix (i : SerialChannel) (j : LineNum) : (s.discardPrefix i).line j = s.line j := by simp [State.line]
@[simp] theorem slot_discardPrefix (i : SerialChannel) (j : PatternNum) : (s.discardPrefix i).slot j = s.slot j := by simp [State.slot]
@[simp] theorem output_discardPrefix (i : SerialChannel) (j : OutputNum) : (s.discardPrefix i).output j = s.output j := by simp [State.output]

/-! ## discardPrefixOf -/

@[simp] theorem discardPrefixOf_inReset (ch : Channel) : (s.discardPrefixOf ch).inReset = s.inReset := (discardPrefixOf_keeps s ch).inReset
@[simp] theorem discardPrefixOf_lines (ch : Channel) : (s.discardPrefixOf ch).lines = s.lines := (discardPrefixOf_keeps s ch).lines rfl
@[simp] theorem discardPrefixOf_debounce (ch : Channel) : (s.discardPrefixOf ch).debounce = s.debounce := (discardPrefixOf_keeps s ch).debounce
@[simp] theorem discardPrefixOf_chans (ch : Channel) : (s.discardPrefixOf ch).chans = s.chans := (discardPrefixOf_keeps s ch).chans rfl
@[simp] theorem discardPrefixOf_slots (ch : Channel) : (s.discardPrefixOf ch).slots = s.slots := (discardPrefixOf_keeps s ch).slots rfl
@[simp] theorem discardPrefixOf_pool (ch : Channel) : (s.discardPrefixOf ch).pool = s.pool := (discardPrefixOf_keeps s ch).pool rfl
@[simp] theorem discardPrefixOf_lastServed (ch : Channel) : (s.discardPrefixOf ch).lastServed = s.lastServed := (discardPrefixOf_keeps s ch).lastServed
@[simp] theorem discardPrefixOf_eventQueue (ch : Channel) : (s.discardPrefixOf ch).eventQueue = s.eventQueue := (discardPrefixOf_keeps s ch).eventQueue rfl
@[simp] theorem discardPrefixOf_eventLevels (ch : Channel) : (s.discardPrefixOf ch).eventLevels = s.eventLevels := (discardPrefixOf_keeps s ch).eventLevels
@[simp] theorem discardPrefixOf_outputs (ch : Channel) : (s.discardPrefixOf ch).outputs = s.outputs := (discardPrefixOf_keeps s ch).outputs rfl
@[simp] theorem discardPrefixOf_staging (ch : Channel) : (s.discardPrefixOf ch).staging = s.staging := (discardPrefixOf_keeps s ch).staging
@[simp] theorem discardPrefixOf_operand (ch : Channel) : (s.discardPrefixOf ch).operand = s.operand := (discardPrefixOf_keeps s ch).operand
@[simp] theorem discardPrefixOf_pendingCommand (ch : Channel) : (s.discardPrefixOf ch).pendingCommand = s.pendingCommand := (discardPrefixOf_keeps s ch).pendingCommand
@[simp] theorem discardPrefixOf_compacting (ch : Channel) : (s.discardPrefixOf ch).compacting = s.compacting := (discardPrefixOf_keeps s ch).compacting rfl
@[simp] theorem discardPrefixOf_arbiterMode (ch : Channel) : (s.discardPrefixOf ch).arbiterMode = s.arbiterMode := (discardPrefixOf_keeps s ch).arbiterMode
@[simp] theorem discardPrefixOf_grant (ch : Channel) : (s.discardPrefixOf ch).grant = s.grant := (discardPrefixOf_keeps s ch).grant rfl
@[simp] theorem discardPrefixOf_timeBase (ch : Channel) : (s.discardPrefixOf ch).timeBase = s.timeBase := (discardPrefixOf_keeps s ch).timeBase
@[simp] theorem discardPrefixOf_chanSel (ch : Channel) : (s.discardPrefixOf ch).chanSel = s.chanSel := (discardPrefixOf_keeps s ch).chanSel
@[simp] theorem discardPrefixOf_configAddr (ch : Channel) : (s.discardPrefixOf ch).configAddr = s.configAddr := (discardPrefixOf_keeps s ch).configAddr
@[simp] theorem discardPrefixOf_pending (ch : Channel) : (s.discardPrefixOf ch).pending = s.pending := (discardPrefixOf_keeps s ch).pending
@[simp] theorem chan_discardPrefixOf (ch : Channel) (j : Channel) : (s.discardPrefixOf ch).chan j = s.chan j := by simp [State.chan]
@[simp] theorem line_discardPrefixOf (ch : Channel) (j : LineNum) : (s.discardPrefixOf ch).line j = s.line j := by simp [State.line]
@[simp] theorem slot_discardPrefixOf (ch : Channel) (j : PatternNum) : (s.discardPrefixOf ch).slot j = s.slot j := by simp [State.slot]
@[simp] theorem output_discardPrefixOf (ch : Channel) (j : OutputNum) : (s.discardPrefixOf ch).output j = s.output j := by simp [State.output]

/-! ## dropStalePrefix -/

@[simp] theorem dropStalePrefix_inReset (i : SerialChannel) (t : Time) : (s.dropStalePrefix i t).inReset = s.inReset := (dropStalePrefix_keeps s i t).inReset
@[simp] theorem dropStalePrefix_lines (i : SerialChannel) (t : Time) : (s.dropStalePrefix i t).lines = s.lines := (dropStalePrefix_keeps s i t).lines rfl
@[simp] theorem dropStalePrefix_debounce (i : SerialChannel) (t : Time) : (s.dropStalePrefix i t).debounce = s.debounce := (dropStalePrefix_keeps s i t).debounce
@[simp] theorem dropStalePrefix_chans (i : SerialChannel) (t : Time) : (s.dropStalePrefix i t).chans = s.chans := (dropStalePrefix_keeps s i t).chans rfl
@[simp] theorem dropStalePrefix_slots (i : SerialChannel) (t : Time) : (s.dropStalePrefix i t).slots = s.slots := (dropStalePrefix_keeps s i t).slots rfl
@[simp] theorem dropStalePrefix_pool (i : SerialChannel) (t : Time) : (s.dropStalePrefix i t).pool = s.pool := (dropStalePrefix_keeps s i t).pool rfl
@[simp] theorem dropStalePrefix_lastServed (i : SerialChannel) (t : Time) : (s.dropStalePrefix i t).lastServed = s.lastServed := (dropStalePrefix_keeps s i t).lastServed
@[simp] theorem dropStalePrefix_eventQueue (i : SerialChannel) (t : Time) : (s.dropStalePrefix i t).eventQueue = s.eventQueue := (dropStalePrefix_keeps s i t).eventQueue rfl
@[simp] theorem dropStalePrefix_eventLevels (i : SerialChannel) (t : Time) : (s.dropStalePrefix i t).eventLevels = s.eventLevels := (dropStalePrefix_keeps s i t).eventLevels
@[simp] theorem dropStalePrefix_outputs (i : SerialChannel) (t : Time) : (s.dropStalePrefix i t).outputs = s.outputs := (dropStalePrefix_keeps s i t).outputs rfl
@[simp] theorem dropStalePrefix_staging (i : SerialChannel) (t : Time) : (s.dropStalePrefix i t).staging = s.staging := (dropStalePrefix_keeps s i t).staging
@[simp] theorem dropStalePrefix_operand (i : SerialChannel) (t : Time) : (s.dropStalePrefix i t).operand = s.operand := (dropStalePrefix_keeps s i t).operand
@[simp] theorem dropStalePrefix_pendingCommand (i : SerialChannel) (t : Time) : (s.dropStalePrefix i t).pendingCommand = s.pendingCommand := (dropStalePrefix_keeps s i t).pendingCommand
@[simp] theorem dropStalePrefix_compacting (i : SerialChannel) (t : Time) : (s.dropStalePrefix i t).compacting = s.compacting := (dropStalePrefix_keeps s i t).compacting rfl
@[simp] theorem dropStalePrefix_arbiterMode (i : SerialChannel) (t : Time) : (s.dropStalePrefix i t).arbiterMode = s.arbiterMode := (dropStalePrefix_keeps s i t).arbiterMode
@[simp] theorem dropStalePrefix_grant (i : SerialChannel) (t : Time) : (s.dropStalePrefix i t).grant = s.grant := (dropStalePrefix_keeps s i t).grant rfl
@[simp] theorem dropStalePrefix_timeBase (i : SerialChannel) (t : Time) : (s.dropStalePrefix i t).timeBase = s.timeBase := (dropStalePrefix_keeps s i t).timeBase
@[simp] theorem dropStalePrefix_chanSel (i : SerialChannel) (t : Time) : (s.dropStalePrefix i t).chanSel = s.chanSel := (dropStalePrefix_keeps s i t).chanSel
@[simp] theorem dropStalePrefix_configAddr (i : SerialChannel) (t : Time) : (s.dropStalePrefix i t).configAddr = s.configAddr := (dropStalePrefix_keeps s i t).configAddr
@[simp] theorem dropStalePrefix_pending (i : SerialChannel) (t : Time) : (s.dropStalePrefix i t).pending = s.pending := (dropStalePrefix_keeps s i t).pending
@[simp] theorem chan_dropStalePrefix (i : SerialChannel) (t : Time) (j : Channel) : (s.dropStalePrefix i t).chan j = s.chan j := by simp [State.chan]
@[simp] theorem line_dropStalePrefix (i : SerialChannel) (t : Time) (j : LineNum) : (s.dropStalePrefix i t).line j = s.line j := by simp [State.line]
@[simp] theorem slot_dropStalePrefix (i : SerialChannel) (t : Time) (j : PatternNum) : (s.dropStalePrefix i t).slot j = s.slot j := by simp [State.slot]
@[simp] theorem output_dropStalePrefix (i : SerialChannel) (t : Time) (j : OutputNum) : (s.dropStalePrefix i t).output j = s.output j := by simp [State.output]

/-! ## reportLine -/

@[simp] theorem reportLine_inReset (n : LineNum) (a : Bool) : (s.reportLine n a).inReset = s.inReset := (reportLine_keeps s n a).inReset
@[simp] theorem reportLine_serial (n : LineNum) (a : Bool) : (s.reportLine n a).serial = s.serial := (reportLine_keeps s n a).serial rfl
@[simp] theorem reportLine_lines (n : LineNum) (a : Bool) : (s.reportLine n a).lines = s.lines := (reportLine_keeps s n a).lines rfl
@[simp] theorem reportLine_debounce (n : LineNum) (a : Bool) : (s.reportLine n a).debounce = s.debounce := (reportLine_keeps s n a).debounce
@[simp] theorem reportLine_slots (n : LineNum) (a : Bool) : (s.reportLine n a).slots = s.slots := (reportLine_keeps s n a).slots rfl
@[simp] theorem reportLine_pool (n : LineNum) (a : Bool) : (s.reportLine n a).pool = s.pool := (reportLine_keeps s n a).pool rfl
@[simp] theorem reportLine_lastServed (n : LineNum) (a : Bool) : (s.reportLine n a).lastServed = s.lastServed := (reportLine_keeps s n a).lastServed
@[simp] theorem reportLine_eventLevels (n : LineNum) (a : Bool) : (s.reportLine n a).eventLevels = s.eventLevels := (reportLine_keeps s n a).eventLevels
@[simp] theorem reportLine_outputs (n : LineNum) (a : Bool) : (s.reportLine n a).outputs = s.outputs := (reportLine_keeps s n a).outputs rfl
@[simp] theorem reportLine_staging (n : LineNum) (a : Bool) : (s.reportLine n a).staging = s.staging := (reportLine_keeps s n a).staging
@[simp] theorem reportLine_operand (n : LineNum) (a : Bool) : (s.reportLine n a).operand = s.operand := (reportLine_keeps s n a).operand
@[simp] theorem reportLine_pendingCommand (n : LineNum) (a : Bool) : (s.reportLine n a).pendingCommand = s.pendingCommand := (reportLine_keeps s n a).pendingCommand
@[simp] theorem reportLine_compacting (n : LineNum) (a : Bool) : (s.reportLine n a).compacting = s.compacting := (reportLine_keeps s n a).compacting rfl
@[simp] theorem reportLine_arbiterMode (n : LineNum) (a : Bool) : (s.reportLine n a).arbiterMode = s.arbiterMode := (reportLine_keeps s n a).arbiterMode
@[simp] theorem reportLine_grant (n : LineNum) (a : Bool) : (s.reportLine n a).grant = s.grant := (reportLine_keeps s n a).grant rfl
@[simp] theorem reportLine_timeBase (n : LineNum) (a : Bool) : (s.reportLine n a).timeBase = s.timeBase := (reportLine_keeps s n a).timeBase
@[simp] theorem reportLine_chanSel (n : LineNum) (a : Bool) : (s.reportLine n a).chanSel = s.chanSel := (reportLine_keeps s n a).chanSel
@[simp] theorem reportLine_configAddr (n : LineNum) (a : Bool) : (s.reportLine n a).configAddr = s.configAddr := (reportLine_keeps s n a).configAddr
@[simp] theorem reportLine_pending (n : LineNum) (a : Bool) : (s.reportLine n a).pending = s.pending := (reportLine_keeps s n a).pending
@[simp] theorem ser_reportLine (n : LineNum) (a : Bool) (j : SerialChannel) : (s.reportLine n a).ser j = s.ser j := by simp [State.ser]
@[simp] theorem line_reportLine (n : LineNum) (a : Bool) (j : LineNum) : (s.reportLine n a).line j = s.line j := by simp [State.line]
@[simp] theorem slot_reportLine (n : LineNum) (a : Bool) (j : PatternNum) : (s.reportLine n a).slot j = s.slot j := by simp [State.slot]
@[simp] theorem output_reportLine (n : LineNum) (a : Bool) (j : OutputNum) : (s.reportLine n a).output j = s.output j := by simp [State.output]

/-! ## takeChange -/

@[simp] theorem takeChange_inReset (n : LineNum) : (s.takeChange n).inReset = s.inReset := (takeChange_keeps s n).inReset
@[simp] theorem takeChange_serial (n : LineNum) : (s.takeChange n).serial = s.serial := (takeChange_keeps s n).serial rfl
@[simp] theorem takeChange_debounce (n : LineNum) : (s.takeChange n).debounce = s.debounce := (takeChange_keeps s n).debounce
@[simp] theorem takeChange_slots (n : LineNum) : (s.takeChange n).slots = s.slots := (takeChange_keeps s n).slots rfl
@[simp] theorem takeChange_pool (n : LineNum) : (s.takeChange n).pool = s.pool := (takeChange_keeps s n).pool rfl
@[simp] theorem takeChange_lastServed (n : LineNum) : (s.takeChange n).lastServed = s.lastServed := (takeChange_keeps s n).lastServed
@[simp] theorem takeChange_eventLevels (n : LineNum) : (s.takeChange n).eventLevels = s.eventLevels := (takeChange_keeps s n).eventLevels
@[simp] theorem takeChange_outputs (n : LineNum) : (s.takeChange n).outputs = s.outputs := (takeChange_keeps s n).outputs rfl
@[simp] theorem takeChange_staging (n : LineNum) : (s.takeChange n).staging = s.staging := (takeChange_keeps s n).staging
@[simp] theorem takeChange_operand (n : LineNum) : (s.takeChange n).operand = s.operand := (takeChange_keeps s n).operand
@[simp] theorem takeChange_pendingCommand (n : LineNum) : (s.takeChange n).pendingCommand = s.pendingCommand := (takeChange_keeps s n).pendingCommand
@[simp] theorem takeChange_compacting (n : LineNum) : (s.takeChange n).compacting = s.compacting := (takeChange_keeps s n).compacting rfl
@[simp] theorem takeChange_arbiterMode (n : LineNum) : (s.takeChange n).arbiterMode = s.arbiterMode := (takeChange_keeps s n).arbiterMode
@[simp] theorem takeChange_grant (n : LineNum) : (s.takeChange n).grant = s.grant := (takeChange_keeps s n).grant rfl
@[simp] theorem takeChange_timeBase (n : LineNum) : (s.takeChange n).timeBase = s.timeBase := (takeChange_keeps s n).timeBase
@[simp] theorem takeChange_chanSel (n : LineNum) : (s.takeChange n).chanSel = s.chanSel := (takeChange_keeps s n).chanSel
@[simp] theorem takeChange_configAddr (n : LineNum) : (s.takeChange n).configAddr = s.configAddr := (takeChange_keeps s n).configAddr
@[simp] theorem takeChange_pending (n : LineNum) : (s.takeChange n).pending = s.pending := (takeChange_keeps s n).pending
@[simp] theorem ser_takeChange (n : LineNum) (j : SerialChannel) : (s.takeChange n).ser j = s.ser j := by simp [State.ser]
@[simp] theorem slot_takeChange (n : LineNum) (j : PatternNum) : (s.takeChange n).slot j = s.slot j := by simp [State.slot]
@[simp] theorem output_takeChange (n : LineNum) (j : OutputNum) : (s.takeChange n).output j = s.output j := by simp [State.output]

/-! ## takeDueChanges -/

@[simp] theorem takeDueChanges_inReset : (s.takeDueChanges).inReset = s.inReset := (takeDueChanges_keeps s).inReset
@[simp] theorem takeDueChanges_serial : (s.takeDueChanges).serial = s.serial := (takeDueChanges_keeps s).serial rfl
@[simp] theorem takeDueChanges_debounce : (s.takeDueChanges).debounce = s.debounce := (takeDueChanges_keeps s).debounce
@[simp] theorem takeDueChanges_slots : (s.takeDueChanges).slots = s.slots := (takeDueChanges_keeps s).slots rfl
@[simp] theorem takeDueChanges_pool : (s.takeDueChanges).pool = s.pool := (takeDueChanges_keeps s).pool rfl
@[simp] theorem takeDueChanges_lastServed : (s.takeDueChanges).lastServed = s.lastServed := (takeDueChanges_keeps s).lastServed
@[simp] theorem takeDueChanges_eventLevels : (s.takeDueChanges).eventLevels = s.eventLevels := (takeDueChanges_keeps s).eventLevels
@[simp] theorem takeDueChanges_outputs : (s.takeDueChanges).outputs = s.outputs := (takeDueChanges_keeps s).outputs rfl
@[simp] theorem takeDueChanges_staging : (s.takeDueChanges).staging = s.staging := (takeDueChanges_keeps s).staging
@[simp] theorem takeDueChanges_operand : (s.takeDueChanges).operand = s.operand := (takeDueChanges_keeps s).operand
@[simp] theorem takeDueChanges_pendingCommand : (s.takeDueChanges).pendingCommand = s.pendingCommand := (takeDueChanges_keeps s).pendingCommand
@[simp] theorem takeDueChanges_compacting : (s.takeDueChanges).compacting = s.compacting := (takeDueChanges_keeps s).compacting rfl
@[simp] theorem takeDueChanges_arbiterMode : (s.takeDueChanges).arbiterMode = s.arbiterMode := (takeDueChanges_keeps s).arbiterMode
@[simp] theorem takeDueChanges_grant : (s.takeDueChanges).grant = s.grant := (takeDueChanges_keeps s).grant rfl
@[simp] theorem takeDueChanges_timeBase : (s.takeDueChanges).timeBase = s.timeBase := (takeDueChanges_keeps s).timeBase
@[simp] theorem takeDueChanges_chanSel : (s.takeDueChanges).chanSel = s.chanSel := (takeDueChanges_keeps s).chanSel
@[simp] theorem takeDueChanges_configAddr : (s.takeDueChanges).configAddr = s.configAddr := (takeDueChanges_keeps s).configAddr
@[simp] theorem takeDueChanges_pending : (s.takeDueChanges).pending = s.pending := (takeDueChanges_keeps s).pending
@[simp] theorem ser_takeDueChanges (j : SerialChannel) : (s.takeDueChanges).ser j = s.ser j := by simp [State.ser]
@[simp] theorem slot_takeDueChanges (j : PatternNum) : (s.takeDueChanges).slot j = s.slot j := by simp [State.slot]
@[simp] theorem output_takeDueChanges (j : OutputNum) : (s.takeDueChanges).output j = s.output j := by simp [State.output]

/-! ## settleDue -/

@[simp] theorem settleDue_inReset : (s.settleDue).inReset = s.inReset := (settleDue_keeps s).inReset
@[simp] theorem settleDue_serial : (s.settleDue).serial = s.serial := (settleDue_keeps s).serial rfl
@[simp] theorem settleDue_debounce : (s.settleDue).debounce = s.debounce := (settleDue_keeps s).debounce
@[simp] theorem settleDue_slots : (s.settleDue).slots = s.slots := (settleDue_keeps s).slots rfl
@[simp] theorem settleDue_pool : (s.settleDue).pool = s.pool := (settleDue_keeps s).pool rfl
@[simp] theorem settleDue_lastServed : (s.settleDue).lastServed = s.lastServed := (settleDue_keeps s).lastServed
@[simp] theorem settleDue_eventLevels : (s.settleDue).eventLevels = s.eventLevels := (settleDue_keeps s).eventLevels
@[simp] theorem settleDue_staging : (s.settleDue).staging = s.staging := (settleDue_keeps s).staging
@[simp] theorem settleDue_operand : (s.settleDue).operand = s.operand := (settleDue_keeps s).operand
@[simp] theorem settleDue_pendingCommand : (s.settleDue).pendingCommand = s.pendingCommand := (settleDue_keeps s).pendingCommand
@[simp] theorem settleDue_compacting : (s.settleDue).compacting = s.compacting := (settleDue_keeps s).compacting rfl
@[simp] theorem settleDue_arbiterMode : (s.settleDue).arbiterMode = s.arbiterMode := (settleDue_keeps s).arbiterMode
@[simp] theorem settleDue_grant : (s.settleDue).grant = s.grant := (settleDue_keeps s).grant rfl
@[simp] theorem settleDue_timeBase : (s.settleDue).timeBase = s.timeBase := (settleDue_keeps s).timeBase
@[simp] theorem settleDue_chanSel : (s.settleDue).chanSel = s.chanSel := (settleDue_keeps s).chanSel
@[simp] theorem settleDue_configAddr : (s.settleDue).configAddr = s.configAddr := (settleDue_keeps s).configAddr
@[simp] theorem settleDue_pending : (s.settleDue).pending = s.pending := (settleDue_keeps s).pending
@[simp] theorem ser_settleDue (j : SerialChannel) : (s.settleDue).ser j = s.ser j := by simp [State.ser]
@[simp] theorem slot_settleDue (j : PatternNum) : (s.settleDue).slot j = s.slot j := by simp [State.slot]

/-! ## passExpiry -/

@[simp] theorem passExpiry_inReset (ch : Channel) (t : Time) : (s.passExpiry ch t).inReset = s.inReset := (passExpiry_keeps s ch t).inReset
@[simp] theorem passExpiry_serial (ch : Channel) (t : Time) : (s.passExpiry ch t).serial = s.serial := (passExpiry_keeps s ch t).serial rfl
@[simp] theorem passExpiry_lines (ch : Channel) (t : Time) : (s.passExpiry ch t).lines = s.lines := (passExpiry_keeps s ch t).lines rfl
@[simp] theorem passExpiry_debounce (ch : Channel) (t : Time) : (s.passExpiry ch t).debounce = s.debounce := (passExpiry_keeps s ch t).debounce
@[simp] theorem passExpiry_slots (ch : Channel) (t : Time) : (s.passExpiry ch t).slots = s.slots := (passExpiry_keeps s ch t).slots rfl
@[simp] theorem passExpiry_pool (ch : Channel) (t : Time) : (s.passExpiry ch t).pool = s.pool := (passExpiry_keeps s ch t).pool rfl
@[simp] theorem passExpiry_lastServed (ch : Channel) (t : Time) : (s.passExpiry ch t).lastServed = s.lastServed := (passExpiry_keeps s ch t).lastServed
@[simp] theorem passExpiry_eventQueue (ch : Channel) (t : Time) : (s.passExpiry ch t).eventQueue = s.eventQueue := (passExpiry_keeps s ch t).eventQueue rfl
@[simp] theorem passExpiry_eventLevels (ch : Channel) (t : Time) : (s.passExpiry ch t).eventLevels = s.eventLevels := (passExpiry_keeps s ch t).eventLevels
@[simp] theorem passExpiry_outputs (ch : Channel) (t : Time) : (s.passExpiry ch t).outputs = s.outputs := (passExpiry_keeps s ch t).outputs rfl
@[simp] theorem passExpiry_staging (ch : Channel) (t : Time) : (s.passExpiry ch t).staging = s.staging := (passExpiry_keeps s ch t).staging
@[simp] theorem passExpiry_operand (ch : Channel) (t : Time) : (s.passExpiry ch t).operand = s.operand := (passExpiry_keeps s ch t).operand
@[simp] theorem passExpiry_pendingCommand (ch : Channel) (t : Time) : (s.passExpiry ch t).pendingCommand = s.pendingCommand := (passExpiry_keeps s ch t).pendingCommand
@[simp] theorem passExpiry_compacting (ch : Channel) (t : Time) : (s.passExpiry ch t).compacting = s.compacting := (passExpiry_keeps s ch t).compacting rfl
@[simp] theorem passExpiry_arbiterMode (ch : Channel) (t : Time) : (s.passExpiry ch t).arbiterMode = s.arbiterMode := (passExpiry_keeps s ch t).arbiterMode
@[simp] theorem passExpiry_grant (ch : Channel) (t : Time) : (s.passExpiry ch t).grant = s.grant := (passExpiry_keeps s ch t).grant rfl
@[simp] theorem passExpiry_timeBase (ch : Channel) (t : Time) : (s.passExpiry ch t).timeBase = s.timeBase := (passExpiry_keeps s ch t).timeBase
@[simp] theorem passExpiry_chanSel (ch : Channel) (t : Time) : (s.passExpiry ch t).chanSel = s.chanSel := (passExpiry_keeps s ch t).chanSel
@[simp] theorem passExpiry_configAddr (ch : Channel) (t : Time) : (s.passExpiry ch t).configAddr = s.configAddr := (passExpiry_keeps s ch t).configAddr
@[simp] theorem passExpiry_pending (ch : Channel) (t : Time) : (s.passExpiry ch t).pending = s.pending := (passExpiry_keeps s ch t).pending
@[simp] theorem ser_passExpiry (ch : Channel) (t : Time) (j : SerialChannel) : (s.passExpiry ch t).ser j = s.ser j := by simp [State.ser]
@[simp] theorem line_passExpiry (ch : Channel) (t : Time) (j : LineNum) : (s.passExpiry ch t).line j = s.line j := by simp [State.line]
@[simp] theorem slot_passExpiry (ch : Channel) (t : Time) (j : PatternNum) : (s.passExpiry ch t).slot j = s.slot j := by simp [State.slot]
@[simp] theorem output_passExpiry (ch : Channel) (t : Time) (j : OutputNum) : (s.passExpiry ch t).output j = s.output j := by simp [State.output]

/-! ## passCandidates -/

@[simp] theorem passCandidates_inReset (ch : Channel) (x : Symbol) : (s.passCandidates ch x).inReset = s.inReset := (passCandidates_keeps s ch x).inReset
@[simp] theorem passCandidates_serial (ch : Channel) (x : Symbol) : (s.passCandidates ch x).serial = s.serial := (passCandidates_keeps s ch x).serial rfl
@[simp] theorem passCandidates_lines (ch : Channel) (x : Symbol) : (s.passCandidates ch x).lines = s.lines := (passCandidates_keeps s ch x).lines rfl
@[simp] theorem passCandidates_debounce (ch : Channel) (x : Symbol) : (s.passCandidates ch x).debounce = s.debounce := (passCandidates_keeps s ch x).debounce
@[simp] theorem passCandidates_slots (ch : Channel) (x : Symbol) : (s.passCandidates ch x).slots = s.slots := (passCandidates_keeps s ch x).slots rfl
@[simp] theorem passCandidates_pool (ch : Channel) (x : Symbol) : (s.passCandidates ch x).pool = s.pool := (passCandidates_keeps s ch x).pool rfl
@[simp] theorem passCandidates_lastServed (ch : Channel) (x : Symbol) : (s.passCandidates ch x).lastServed = s.lastServed := (passCandidates_keeps s ch x).lastServed
@[simp] theorem passCandidates_eventLevels (ch : Channel) (x : Symbol) : (s.passCandidates ch x).eventLevels = s.eventLevels := (passCandidates_keeps s ch x).eventLevels
@[simp] theorem passCandidates_outputs (ch : Channel) (x : Symbol) : (s.passCandidates ch x).outputs = s.outputs := (passCandidates_keeps s ch x).outputs rfl
@[simp] theorem passCandidates_staging (ch : Channel) (x : Symbol) : (s.passCandidates ch x).staging = s.staging := (passCandidates_keeps s ch x).staging
@[simp] theorem passCandidates_operand (ch : Channel) (x : Symbol) : (s.passCandidates ch x).operand = s.operand := (passCandidates_keeps s ch x).operand
@[simp] theorem passCandidates_pendingCommand (ch : Channel) (x : Symbol) : (s.passCandidates ch x).pendingCommand = s.pendingCommand := (passCandidates_keeps s ch x).pendingCommand
@[simp] theorem passCandidates_compacting (ch : Channel) (x : Symbol) : (s.passCandidates ch x).compacting = s.compacting := (passCandidates_keeps s ch x).compacting rfl
@[simp] theorem passCandidates_arbiterMode (ch : Channel) (x : Symbol) : (s.passCandidates ch x).arbiterMode = s.arbiterMode := (passCandidates_keeps s ch x).arbiterMode
@[simp] theorem passCandidates_grant (ch : Channel) (x : Symbol) : (s.passCandidates ch x).grant = s.grant := (passCandidates_keeps s ch x).grant rfl
@[simp] theorem passCandidates_timeBase (ch : Channel) (x : Symbol) : (s.passCandidates ch x).timeBase = s.timeBase := (passCandidates_keeps s ch x).timeBase
@[simp] theorem passCandidates_chanSel (ch : Channel) (x : Symbol) : (s.passCandidates ch x).chanSel = s.chanSel := (passCandidates_keeps s ch x).chanSel
@[simp] theorem passCandidates_configAddr (ch : Channel) (x : Symbol) : (s.passCandidates ch x).configAddr = s.configAddr := (passCandidates_keeps s ch x).configAddr
@[simp] theorem passCandidates_pending (ch : Channel) (x : Symbol) : (s.passCandidates ch x).pending = s.pending := (passCandidates_keeps s ch x).pending
@[simp] theorem ser_passCandidates (ch : Channel) (x : Symbol) (j : SerialChannel) : (s.passCandidates ch x).ser j = s.ser j := by simp [State.ser]
@[simp] theorem line_passCandidates (ch : Channel) (x : Symbol) (j : LineNum) : (s.passCandidates ch x).line j = s.line j := by simp [State.line]
@[simp] theorem slot_passCandidates (ch : Channel) (x : Symbol) (j : PatternNum) : (s.passCandidates ch x).slot j = s.slot j := by simp [State.slot]
@[simp] theorem output_passCandidates (ch : Channel) (x : Symbol) (j : OutputNum) : (s.passCandidates ch x).output j = s.output j := by simp [State.output]

/-! ## passSpawning -/

@[simp] theorem passSpawning_inReset (ch : Channel) (x : Symbol) (w : Spawning) : (s.passSpawning ch x w).inReset = s.inReset := (passSpawning_keeps s ch x w).inReset
@[simp] theorem passSpawning_serial (ch : Channel) (x : Symbol) (w : Spawning) : (s.passSpawning ch x w).serial = s.serial := (passSpawning_keeps s ch x w).serial rfl
@[simp] theorem passSpawning_lines (ch : Channel) (x : Symbol) (w : Spawning) : (s.passSpawning ch x w).lines = s.lines := (passSpawning_keeps s ch x w).lines rfl
@[simp] theorem passSpawning_debounce (ch : Channel) (x : Symbol) (w : Spawning) : (s.passSpawning ch x w).debounce = s.debounce := (passSpawning_keeps s ch x w).debounce
@[simp] theorem passSpawning_slots (ch : Channel) (x : Symbol) (w : Spawning) : (s.passSpawning ch x w).slots = s.slots := (passSpawning_keeps s ch x w).slots rfl
@[simp] theorem passSpawning_pool (ch : Channel) (x : Symbol) (w : Spawning) : (s.passSpawning ch x w).pool = s.pool := (passSpawning_keeps s ch x w).pool rfl
@[simp] theorem passSpawning_lastServed (ch : Channel) (x : Symbol) (w : Spawning) : (s.passSpawning ch x w).lastServed = s.lastServed := (passSpawning_keeps s ch x w).lastServed
@[simp] theorem passSpawning_eventLevels (ch : Channel) (x : Symbol) (w : Spawning) : (s.passSpawning ch x w).eventLevels = s.eventLevels := (passSpawning_keeps s ch x w).eventLevels
@[simp] theorem passSpawning_outputs (ch : Channel) (x : Symbol) (w : Spawning) : (s.passSpawning ch x w).outputs = s.outputs := (passSpawning_keeps s ch x w).outputs rfl
@[simp] theorem passSpawning_staging (ch : Channel) (x : Symbol) (w : Spawning) : (s.passSpawning ch x w).staging = s.staging := (passSpawning_keeps s ch x w).staging
@[simp] theorem passSpawning_operand (ch : Channel) (x : Symbol) (w : Spawning) : (s.passSpawning ch x w).operand = s.operand := (passSpawning_keeps s ch x w).operand
@[simp] theorem passSpawning_pendingCommand (ch : Channel) (x : Symbol) (w : Spawning) : (s.passSpawning ch x w).pendingCommand = s.pendingCommand := (passSpawning_keeps s ch x w).pendingCommand
@[simp] theorem passSpawning_compacting (ch : Channel) (x : Symbol) (w : Spawning) : (s.passSpawning ch x w).compacting = s.compacting := (passSpawning_keeps s ch x w).compacting rfl
@[simp] theorem passSpawning_arbiterMode (ch : Channel) (x : Symbol) (w : Spawning) : (s.passSpawning ch x w).arbiterMode = s.arbiterMode := (passSpawning_keeps s ch x w).arbiterMode
@[simp] theorem passSpawning_grant (ch : Channel) (x : Symbol) (w : Spawning) : (s.passSpawning ch x w).grant = s.grant := (passSpawning_keeps s ch x w).grant rfl
@[simp] theorem passSpawning_timeBase (ch : Channel) (x : Symbol) (w : Spawning) : (s.passSpawning ch x w).timeBase = s.timeBase := (passSpawning_keeps s ch x w).timeBase
@[simp] theorem passSpawning_chanSel (ch : Channel) (x : Symbol) (w : Spawning) : (s.passSpawning ch x w).chanSel = s.chanSel := (passSpawning_keeps s ch x w).chanSel
@[simp] theorem passSpawning_configAddr (ch : Channel) (x : Symbol) (w : Spawning) : (s.passSpawning ch x w).configAddr = s.configAddr := (passSpawning_keeps s ch x w).configAddr
@[simp] theorem passSpawning_pending (ch : Channel) (x : Symbol) (w : Spawning) : (s.passSpawning ch x w).pending = s.pending := (passSpawning_keeps s ch x w).pending
@[simp] theorem ser_passSpawning (ch : Channel) (x : Symbol) (w : Spawning) (j : SerialChannel) : (s.passSpawning ch x w).ser j = s.ser j := by simp [State.ser]
@[simp] theorem line_passSpawning (ch : Channel) (x : Symbol) (w : Spawning) (j : LineNum) : (s.passSpawning ch x w).line j = s.line j := by simp [State.line]
@[simp] theorem slot_passSpawning (ch : Channel) (x : Symbol) (w : Spawning) (j : PatternNum) : (s.passSpawning ch x w).slot j = s.slot j := by simp [State.slot]
@[simp] theorem output_passSpawning (ch : Channel) (x : Symbol) (w : Spawning) (j : OutputNum) : (s.passSpawning ch x w).output j = s.output j := by simp [State.output]

/-! ## offerMatch -/

@[simp] theorem offerMatch_inReset (ch : Channel) (x : Symbol) (d : Completion) : (s.offerMatch ch x d).inReset = s.inReset := (offerMatch_keeps s ch x d).inReset
@[simp] theorem offerMatch_serial (ch : Channel) (x : Symbol) (d : Completion) : (s.offerMatch ch x d).serial = s.serial := (offerMatch_keeps s ch x d).serial rfl
@[simp] theorem offerMatch_lines (ch : Channel) (x : Symbol) (d : Completion) : (s.offerMatch ch x d).lines = s.lines := (offerMatch_keeps s ch x d).lines rfl
@[simp] theorem offerMatch_debounce (ch : Channel) (x : Symbol) (d : Completion) : (s.offerMatch ch x d).debounce = s.debounce := (offerMatch_keeps s ch x d).debounce
@[simp] theorem offerMatch_chans (ch : Channel) (x : Symbol) (d : Completion) : (s.offerMatch ch x d).chans = s.chans := (offerMatch_keeps s ch x d).chans rfl
@[simp] theorem offerMatch_slots (ch : Channel) (x : Symbol) (d : Completion) : (s.offerMatch ch x d).slots = s.slots := (offerMatch_keeps s ch x d).slots rfl
@[simp] theorem offerMatch_pool (ch : Channel) (x : Symbol) (d : Completion) : (s.offerMatch ch x d).pool = s.pool := (offerMatch_keeps s ch x d).pool rfl
@[simp] theorem offerMatch_lastServed (ch : Channel) (x : Symbol) (d : Completion) : (s.offerMatch ch x d).lastServed = s.lastServed := (offerMatch_keeps s ch x d).lastServed
@[simp] theorem offerMatch_eventLevels (ch : Channel) (x : Symbol) (d : Completion) : (s.offerMatch ch x d).eventLevels = s.eventLevels := (offerMatch_keeps s ch x d).eventLevels
@[simp] theorem offerMatch_outputs (ch : Channel) (x : Symbol) (d : Completion) : (s.offerMatch ch x d).outputs = s.outputs := (offerMatch_keeps s ch x d).outputs rfl
@[simp] theorem offerMatch_staging (ch : Channel) (x : Symbol) (d : Completion) : (s.offerMatch ch x d).staging = s.staging := (offerMatch_keeps s ch x d).staging
@[simp] theorem offerMatch_operand (ch : Channel) (x : Symbol) (d : Completion) : (s.offerMatch ch x d).operand = s.operand := (offerMatch_keeps s ch x d).operand
@[simp] theorem offerMatch_pendingCommand (ch : Channel) (x : Symbol) (d : Completion) : (s.offerMatch ch x d).pendingCommand = s.pendingCommand := (offerMatch_keeps s ch x d).pendingCommand
@[simp] theorem offerMatch_compacting (ch : Channel) (x : Symbol) (d : Completion) : (s.offerMatch ch x d).compacting = s.compacting := (offerMatch_keeps s ch x d).compacting rfl
@[simp] theorem offerMatch_arbiterMode (ch : Channel) (x : Symbol) (d : Completion) : (s.offerMatch ch x d).arbiterMode = s.arbiterMode := (offerMatch_keeps s ch x d).arbiterMode
@[simp] theorem offerMatch_grant (ch : Channel) (x : Symbol) (d : Completion) : (s.offerMatch ch x d).grant = s.grant := (offerMatch_keeps s ch x d).grant rfl
@[simp] theorem offerMatch_timeBase (ch : Channel) (x : Symbol) (d : Completion) : (s.offerMatch ch x d).timeBase = s.timeBase := (offerMatch_keeps s ch x d).timeBase
@[simp] theorem offerMatch_chanSel (ch : Channel) (x : Symbol) (d : Completion) : (s.offerMatch ch x d).chanSel = s.chanSel := (offerMatch_keeps s ch x d).chanSel
@[simp] theorem offerMatch_configAddr (ch : Channel) (x : Symbol) (d : Completion) : (s.offerMatch ch x d).configAddr = s.configAddr := (offerMatch_keeps s ch x d).configAddr
@[simp] theorem offerMatch_pending (ch : Channel) (x : Symbol) (d : Completion) : (s.offerMatch ch x d).pending = s.pending := (offerMatch_keeps s ch x d).pending
@[simp] theorem chan_offerMatch (ch : Channel) (x : Symbol) (d : Completion) (j : Channel) : (s.offerMatch ch x d).chan j = s.chan j := by simp [State.chan]
@[simp] theorem ser_offerMatch (ch : Channel) (x : Symbol) (d : Completion) (j : SerialChannel) : (s.offerMatch ch x d).ser j = s.ser j := by simp [State.ser]
@[simp] theorem line_offerMatch (ch : Channel) (x : Symbol) (d : Completion) (j : LineNum) : (s.offerMatch ch x d).line j = s.line j := by simp [State.line]
@[simp] theorem slot_offerMatch (ch : Channel) (x : Symbol) (d : Completion) (j : PatternNum) : (s.offerMatch ch x d).slot j = s.slot j := by simp [State.slot]
@[simp] theorem output_offerMatch (ch : Channel) (x : Symbol) (d : Completion) (j : OutputNum) : (s.offerMatch ch x d).output j = s.output j := by simp [State.output]

/-! ## disarmOneShot -/

@[simp] theorem disarmOneShot_inReset (d : Completion) : (s.disarmOneShot d).inReset = s.inReset := (disarmOneShot_keeps s d).inReset
@[simp] theorem disarmOneShot_serial (d : Completion) : (s.disarmOneShot d).serial = s.serial := (disarmOneShot_keeps s d).serial rfl
@[simp] theorem disarmOneShot_lines (d : Completion) : (s.disarmOneShot d).lines = s.lines := (disarmOneShot_keeps s d).lines rfl
@[simp] theorem disarmOneShot_debounce (d : Completion) : (s.disarmOneShot d).debounce = s.debounce := (disarmOneShot_keeps s d).debounce
@[simp] theorem disarmOneShot_pool (d : Completion) : (s.disarmOneShot d).pool = s.pool := (disarmOneShot_keeps s d).pool rfl
@[simp] theorem disarmOneShot_lastServed (d : Completion) : (s.disarmOneShot d).lastServed = s.lastServed := (disarmOneShot_keeps s d).lastServed
@[simp] theorem disarmOneShot_eventQueue (d : Completion) : (s.disarmOneShot d).eventQueue = s.eventQueue := (disarmOneShot_keeps s d).eventQueue rfl
@[simp] theorem disarmOneShot_eventLevels (d : Completion) : (s.disarmOneShot d).eventLevels = s.eventLevels := (disarmOneShot_keeps s d).eventLevels
@[simp] theorem disarmOneShot_outputs (d : Completion) : (s.disarmOneShot d).outputs = s.outputs := (disarmOneShot_keeps s d).outputs rfl
@[simp] theorem disarmOneShot_staging (d : Completion) : (s.disarmOneShot d).staging = s.staging := (disarmOneShot_keeps s d).staging
@[simp] theorem disarmOneShot_operand (d : Completion) : (s.disarmOneShot d).operand = s.operand := (disarmOneShot_keeps s d).operand
@[simp] theorem disarmOneShot_pendingCommand (d : Completion) : (s.disarmOneShot d).pendingCommand = s.pendingCommand := (disarmOneShot_keeps s d).pendingCommand
@[simp] theorem disarmOneShot_compacting (d : Completion) : (s.disarmOneShot d).compacting = s.compacting := (disarmOneShot_keeps s d).compacting rfl
@[simp] theorem disarmOneShot_arbiterMode (d : Completion) : (s.disarmOneShot d).arbiterMode = s.arbiterMode := (disarmOneShot_keeps s d).arbiterMode
@[simp] theorem disarmOneShot_grant (d : Completion) : (s.disarmOneShot d).grant = s.grant := (disarmOneShot_keeps s d).grant rfl
@[simp] theorem disarmOneShot_timeBase (d : Completion) : (s.disarmOneShot d).timeBase = s.timeBase := (disarmOneShot_keeps s d).timeBase
@[simp] theorem disarmOneShot_chanSel (d : Completion) : (s.disarmOneShot d).chanSel = s.chanSel := (disarmOneShot_keeps s d).chanSel
@[simp] theorem disarmOneShot_configAddr (d : Completion) : (s.disarmOneShot d).configAddr = s.configAddr := (disarmOneShot_keeps s d).configAddr
@[simp] theorem disarmOneShot_pending (d : Completion) : (s.disarmOneShot d).pending = s.pending := (disarmOneShot_keeps s d).pending
@[simp] theorem ser_disarmOneShot (d : Completion) (j : SerialChannel) : (s.disarmOneShot d).ser j = s.ser j := by simp [State.ser]
@[simp] theorem line_disarmOneShot (d : Completion) (j : LineNum) : (s.disarmOneShot d).line j = s.line j := by simp [State.line]
@[simp] theorem output_disarmOneShot (d : Completion) (j : OutputNum) : (s.disarmOneShot d).output j = s.output j := by simp [State.output]

/-! ## passCompletions -/

@[simp] theorem passCompletions_inReset (ch : Channel) (x : Symbol) (done : List Completion) : (s.passCompletions ch x done).inReset = s.inReset := (passCompletions_keeps s ch x done).inReset
@[simp] theorem passCompletions_serial (ch : Channel) (x : Symbol) (done : List Completion) : (s.passCompletions ch x done).serial = s.serial := (passCompletions_keeps s ch x done).serial rfl
@[simp] theorem passCompletions_lines (ch : Channel) (x : Symbol) (done : List Completion) : (s.passCompletions ch x done).lines = s.lines := (passCompletions_keeps s ch x done).lines rfl
@[simp] theorem passCompletions_debounce (ch : Channel) (x : Symbol) (done : List Completion) : (s.passCompletions ch x done).debounce = s.debounce := (passCompletions_keeps s ch x done).debounce
@[simp] theorem passCompletions_pool (ch : Channel) (x : Symbol) (done : List Completion) : (s.passCompletions ch x done).pool = s.pool := (passCompletions_keeps s ch x done).pool rfl
@[simp] theorem passCompletions_lastServed (ch : Channel) (x : Symbol) (done : List Completion) : (s.passCompletions ch x done).lastServed = s.lastServed := (passCompletions_keeps s ch x done).lastServed
@[simp] theorem passCompletions_eventLevels (ch : Channel) (x : Symbol) (done : List Completion) : (s.passCompletions ch x done).eventLevels = s.eventLevels := (passCompletions_keeps s ch x done).eventLevels
@[simp] theorem passCompletions_staging (ch : Channel) (x : Symbol) (done : List Completion) : (s.passCompletions ch x done).staging = s.staging := (passCompletions_keeps s ch x done).staging
@[simp] theorem passCompletions_operand (ch : Channel) (x : Symbol) (done : List Completion) : (s.passCompletions ch x done).operand = s.operand := (passCompletions_keeps s ch x done).operand
@[simp] theorem passCompletions_pendingCommand (ch : Channel) (x : Symbol) (done : List Completion) : (s.passCompletions ch x done).pendingCommand = s.pendingCommand := (passCompletions_keeps s ch x done).pendingCommand
@[simp] theorem passCompletions_compacting (ch : Channel) (x : Symbol) (done : List Completion) : (s.passCompletions ch x done).compacting = s.compacting := (passCompletions_keeps s ch x done).compacting rfl
@[simp] theorem passCompletions_arbiterMode (ch : Channel) (x : Symbol) (done : List Completion) : (s.passCompletions ch x done).arbiterMode = s.arbiterMode := (passCompletions_keeps s ch x done).arbiterMode
@[simp] theorem passCompletions_grant (ch : Channel) (x : Symbol) (done : List Completion) : (s.passCompletions ch x done).grant = s.grant := (passCompletions_keeps s ch x done).grant rfl
@[simp] theorem passCompletions_timeBase (ch : Channel) (x : Symbol) (done : List Completion) : (s.passCompletions ch x done).timeBase = s.timeBase := (passCompletions_keeps s ch x done).timeBase
@[simp] theorem passCompletions_chanSel (ch : Channel) (x : Symbol) (done : List Completion) : (s.passCompletions ch x done).chanSel = s.chanSel := (passCompletions_keeps s ch x done).chanSel
@[simp] theorem passCompletions_configAddr (ch : Channel) (x : Symbol) (done : List Completion) : (s.passCompletions ch x done).configAddr = s.configAddr := (passCompletions_keeps s ch x done).configAddr
@[simp] theorem passCompletions_pending (ch : Channel) (x : Symbol) (done : List Completion) : (s.passCompletions ch x done).pending = s.pending := (passCompletions_keeps s ch x done).pending
@[simp] theorem ser_passCompletions (ch : Channel) (x : Symbol) (done : List Completion) (j : SerialChannel) : (s.passCompletions ch x done).ser j = s.ser j := by simp [State.ser]
@[simp] theorem line_passCompletions (ch : Channel) (x : Symbol) (done : List Completion) (j : LineNum) : (s.passCompletions ch x done).line j = s.line j := by simp [State.line]

/-! ## handOn -/

@[simp] theorem handOn_inReset (ch : Channel) (x : Symbol) (d : Disposition) : (s.handOn ch x d).inReset = s.inReset := (handOn_keeps s ch x d).inReset
@[simp] theorem handOn_serial (ch : Channel) (x : Symbol) (d : Disposition) : (s.handOn ch x d).serial = s.serial := (handOn_keeps s ch x d).serial rfl
@[simp] theorem handOn_lines (ch : Channel) (x : Symbol) (d : Disposition) : (s.handOn ch x d).lines = s.lines := (handOn_keeps s ch x d).lines rfl
@[simp] theorem handOn_debounce (ch : Channel) (x : Symbol) (d : Disposition) : (s.handOn ch x d).debounce = s.debounce := (handOn_keeps s ch x d).debounce
@[simp] theorem handOn_slots (ch : Channel) (x : Symbol) (d : Disposition) : (s.handOn ch x d).slots = s.slots := (handOn_keeps s ch x d).slots rfl
@[simp] theorem handOn_pool (ch : Channel) (x : Symbol) (d : Disposition) : (s.handOn ch x d).pool = s.pool := (handOn_keeps s ch x d).pool rfl
@[simp] theorem handOn_lastServed (ch : Channel) (x : Symbol) (d : Disposition) : (s.handOn ch x d).lastServed = s.lastServed := (handOn_keeps s ch x d).lastServed
@[simp] theorem handOn_eventLevels (ch : Channel) (x : Symbol) (d : Disposition) : (s.handOn ch x d).eventLevels = s.eventLevels := (handOn_keeps s ch x d).eventLevels
@[simp] theorem handOn_outputs (ch : Channel) (x : Symbol) (d : Disposition) : (s.handOn ch x d).outputs = s.outputs := (handOn_keeps s ch x d).outputs rfl
@[simp] theorem handOn_staging (ch : Channel) (x : Symbol) (d : Disposition) : (s.handOn ch x d).staging = s.staging := (handOn_keeps s ch x d).staging
@[simp] theorem handOn_operand (ch : Channel) (x : Symbol) (d : Disposition) : (s.handOn ch x d).operand = s.operand := (handOn_keeps s ch x d).operand
@[simp] theorem handOn_pendingCommand (ch : Channel) (x : Symbol) (d : Disposition) : (s.handOn ch x d).pendingCommand = s.pendingCommand := (handOn_keeps s ch x d).pendingCommand
@[simp] theorem handOn_compacting (ch : Channel) (x : Symbol) (d : Disposition) : (s.handOn ch x d).compacting = s.compacting := (handOn_keeps s ch x d).compacting rfl
@[simp] theorem handOn_arbiterMode (ch : Channel) (x : Symbol) (d : Disposition) : (s.handOn ch x d).arbiterMode = s.arbiterMode := (handOn_keeps s ch x d).arbiterMode
@[simp] theorem handOn_grant (ch : Channel) (x : Symbol) (d : Disposition) : (s.handOn ch x d).grant = s.grant := (handOn_keeps s ch x d).grant rfl
@[simp] theorem handOn_timeBase (ch : Channel) (x : Symbol) (d : Disposition) : (s.handOn ch x d).timeBase = s.timeBase := (handOn_keeps s ch x d).timeBase
@[simp] theorem handOn_chanSel (ch : Channel) (x : Symbol) (d : Disposition) : (s.handOn ch x d).chanSel = s.chanSel := (handOn_keeps s ch x d).chanSel
@[simp] theorem handOn_configAddr (ch : Channel) (x : Symbol) (d : Disposition) : (s.handOn ch x d).configAddr = s.configAddr := (handOn_keeps s ch x d).configAddr
@[simp] theorem handOn_pending (ch : Channel) (x : Symbol) (d : Disposition) : (s.handOn ch x d).pending = s.pending := (handOn_keeps s ch x d).pending
@[simp] theorem ser_handOn (ch : Channel) (x : Symbol) (d : Disposition) (j : SerialChannel) : (s.handOn ch x d).ser j = s.ser j := by simp [State.ser]
@[simp] theorem line_handOn (ch : Channel) (x : Symbol) (d : Disposition) (j : LineNum) : (s.handOn ch x d).line j = s.line j := by simp [State.line]
@[simp] theorem slot_handOn (ch : Channel) (x : Symbol) (d : Disposition) (j : PatternNum) : (s.handOn ch x d).slot j = s.slot j := by simp [State.slot]
@[simp] theorem output_handOn (ch : Channel) (x : Symbol) (d : Disposition) (j : OutputNum) : (s.handOn ch x d).output j = s.output j := by simp [State.output]

/-! ## passPhases -/

@[simp] theorem passPhases_inReset (ch : Channel) (x : Symbol) : (s.passPhases ch x).inReset = s.inReset := (passPhases_keeps s ch x).inReset
@[simp] theorem passPhases_serial (ch : Channel) (x : Symbol) : (s.passPhases ch x).serial = s.serial := (passPhases_keeps s ch x).serial rfl
@[simp] theorem passPhases_lines (ch : Channel) (x : Symbol) : (s.passPhases ch x).lines = s.lines := (passPhases_keeps s ch x).lines rfl
@[simp] theorem passPhases_debounce (ch : Channel) (x : Symbol) : (s.passPhases ch x).debounce = s.debounce := (passPhases_keeps s ch x).debounce
@[simp] theorem passPhases_pool (ch : Channel) (x : Symbol) : (s.passPhases ch x).pool = s.pool := (passPhases_keeps s ch x).pool rfl
@[simp] theorem passPhases_lastServed (ch : Channel) (x : Symbol) : (s.passPhases ch x).lastServed = s.lastServed := (passPhases_keeps s ch x).lastServed
@[simp] theorem passPhases_eventLevels (ch : Channel) (x : Symbol) : (s.passPhases ch x).eventLevels = s.eventLevels := (passPhases_keeps s ch x).eventLevels
@[simp] theorem passPhases_staging (ch : Channel) (x : Symbol) : (s.passPhases ch x).staging = s.staging := (passPhases_keeps s ch x).staging
@[simp] theorem passPhases_operand (ch : Channel) (x : Symbol) : (s.passPhases ch x).operand = s.operand := (passPhases_keeps s ch x).operand
@[simp] theorem passPhases_pendingCommand (ch : Channel) (x : Symbol) : (s.passPhases ch x).pendingCommand = s.pendingCommand := (passPhases_keeps s ch x).pendingCommand
@[simp] theorem passPhases_compacting (ch : Channel) (x : Symbol) : (s.passPhases ch x).compacting = s.compacting := (passPhases_keeps s ch x).compacting rfl
@[simp] theorem passPhases_arbiterMode (ch : Channel) (x : Symbol) : (s.passPhases ch x).arbiterMode = s.arbiterMode := (passPhases_keeps s ch x).arbiterMode
@[simp] theorem passPhases_grant (ch : Channel) (x : Symbol) : (s.passPhases ch x).grant = s.grant := (passPhases_keeps s ch x).grant rfl
@[simp] theorem passPhases_timeBase (ch : Channel) (x : Symbol) : (s.passPhases ch x).timeBase = s.timeBase := (passPhases_keeps s ch x).timeBase
@[simp] theorem passPhases_chanSel (ch : Channel) (x : Symbol) : (s.passPhases ch x).chanSel = s.chanSel := (passPhases_keeps s ch x).chanSel
@[simp] theorem passPhases_configAddr (ch : Channel) (x : Symbol) : (s.passPhases ch x).configAddr = s.configAddr := (passPhases_keeps s ch x).configAddr
@[simp] theorem passPhases_pending (ch : Channel) (x : Symbol) : (s.passPhases ch x).pending = s.pending := (passPhases_keeps s ch x).pending
@[simp] theorem ser_passPhases (ch : Channel) (x : Symbol) (j : SerialChannel) : (s.passPhases ch x).ser j = s.ser j := by simp [State.ser]
@[simp] theorem line_passPhases (ch : Channel) (x : Symbol) (j : LineNum) : (s.passPhases ch x).line j = s.line j := by simp [State.line]

/-! ## runPass -/

@[simp] theorem runPass_inReset (ch : Channel) (x : Symbol) : (s.runPass ch x).inReset = s.inReset := (runPass_keeps s ch x).inReset
@[simp] theorem runPass_serial (ch : Channel) (x : Symbol) : (s.runPass ch x).serial = s.serial := (runPass_keeps s ch x).serial rfl
@[simp] theorem runPass_lines (ch : Channel) (x : Symbol) : (s.runPass ch x).lines = s.lines := (runPass_keeps s ch x).lines rfl
@[simp] theorem runPass_debounce (ch : Channel) (x : Symbol) : (s.runPass ch x).debounce = s.debounce := (runPass_keeps s ch x).debounce
@[simp] theorem runPass_pool (ch : Channel) (x : Symbol) : (s.runPass ch x).pool = s.pool := (runPass_keeps s ch x).pool rfl
@[simp] theorem runPass_lastServed (ch : Channel) (x : Symbol) : (s.runPass ch x).lastServed = s.lastServed := (runPass_keeps s ch x).lastServed
@[simp] theorem runPass_eventLevels (ch : Channel) (x : Symbol) : (s.runPass ch x).eventLevels = s.eventLevels := (runPass_keeps s ch x).eventLevels
@[simp] theorem runPass_staging (ch : Channel) (x : Symbol) : (s.runPass ch x).staging = s.staging := (runPass_keeps s ch x).staging
@[simp] theorem runPass_operand (ch : Channel) (x : Symbol) : (s.runPass ch x).operand = s.operand := (runPass_keeps s ch x).operand
@[simp] theorem runPass_pendingCommand (ch : Channel) (x : Symbol) : (s.runPass ch x).pendingCommand = s.pendingCommand := (runPass_keeps s ch x).pendingCommand
@[simp] theorem runPass_compacting (ch : Channel) (x : Symbol) : (s.runPass ch x).compacting = s.compacting := (runPass_keeps s ch x).compacting rfl
@[simp] theorem runPass_arbiterMode (ch : Channel) (x : Symbol) : (s.runPass ch x).arbiterMode = s.arbiterMode := (runPass_keeps s ch x).arbiterMode
@[simp] theorem runPass_grant (ch : Channel) (x : Symbol) : (s.runPass ch x).grant = s.grant := (runPass_keeps s ch x).grant rfl
@[simp] theorem runPass_timeBase (ch : Channel) (x : Symbol) : (s.runPass ch x).timeBase = s.timeBase := (runPass_keeps s ch x).timeBase
@[simp] theorem runPass_chanSel (ch : Channel) (x : Symbol) : (s.runPass ch x).chanSel = s.chanSel := (runPass_keeps s ch x).chanSel
@[simp] theorem runPass_configAddr (ch : Channel) (x : Symbol) : (s.runPass ch x).configAddr = s.configAddr := (runPass_keeps s ch x).configAddr
@[simp] theorem runPass_pending (ch : Channel) (x : Symbol) : (s.runPass ch x).pending = s.pending := (runPass_keeps s ch x).pending
@[simp] theorem ser_runPass (ch : Channel) (x : Symbol) (j : SerialChannel) : (s.runPass ch x).ser j = s.ser j := by simp [State.ser]
@[simp] theorem line_runPass (ch : Channel) (x : Symbol) (j : LineNum) : (s.runPass ch x).line j = s.line j := by simp [State.line]

/-! ## endCompaction -/

@[simp] theorem endCompaction_inReset : (s.endCompaction).inReset = s.inReset := (endCompaction_keeps s).inReset
@[simp] theorem endCompaction_serial : (s.endCompaction).serial = s.serial := (endCompaction_keeps s).serial rfl
@[simp] theorem endCompaction_lines : (s.endCompaction).lines = s.lines := (endCompaction_keeps s).lines rfl
@[simp] theorem endCompaction_debounce : (s.endCompaction).debounce = s.debounce := (endCompaction_keeps s).debounce
@[simp] theorem endCompaction_chans : (s.endCompaction).chans = s.chans := (endCompaction_keeps s).chans rfl
@[simp] theorem endCompaction_slots : (s.endCompaction).slots = s.slots := (endCompaction_keeps s).slots rfl
@[simp] theorem endCompaction_pool : (s.endCompaction).pool = s.pool := (endCompaction_keeps s).pool rfl
@[simp] theorem endCompaction_lastServed : (s.endCompaction).lastServed = s.lastServed := (endCompaction_keeps s).lastServed
@[simp] theorem endCompaction_eventLevels : (s.endCompaction).eventLevels = s.eventLevels := (endCompaction_keeps s).eventLevels
@[simp] theorem endCompaction_outputs : (s.endCompaction).outputs = s.outputs := (endCompaction_keeps s).outputs rfl
@[simp] theorem endCompaction_staging : (s.endCompaction).staging = s.staging := (endCompaction_keeps s).staging
@[simp] theorem endCompaction_operand : (s.endCompaction).operand = s.operand := (endCompaction_keeps s).operand
@[simp] theorem endCompaction_pendingCommand : (s.endCompaction).pendingCommand = s.pendingCommand := (endCompaction_keeps s).pendingCommand
@[simp] theorem endCompaction_arbiterMode : (s.endCompaction).arbiterMode = s.arbiterMode := (endCompaction_keeps s).arbiterMode
@[simp] theorem endCompaction_grant : (s.endCompaction).grant = s.grant := (endCompaction_keeps s).grant rfl
@[simp] theorem endCompaction_timeBase : (s.endCompaction).timeBase = s.timeBase := (endCompaction_keeps s).timeBase
@[simp] theorem endCompaction_chanSel : (s.endCompaction).chanSel = s.chanSel := (endCompaction_keeps s).chanSel
@[simp] theorem endCompaction_configAddr : (s.endCompaction).configAddr = s.configAddr := (endCompaction_keeps s).configAddr
@[simp] theorem endCompaction_pending : (s.endCompaction).pending = s.pending := (endCompaction_keeps s).pending
@[simp] theorem chan_endCompaction (j : Channel) : (s.endCompaction).chan j = s.chan j := by simp [State.chan]
@[simp] theorem ser_endCompaction (j : SerialChannel) : (s.endCompaction).ser j = s.ser j := by simp [State.ser]
@[simp] theorem line_endCompaction (j : LineNum) : (s.endCompaction).line j = s.line j := by simp [State.line]
@[simp] theorem slot_endCompaction (j : PatternNum) : (s.endCompaction).slot j = s.slot j := by simp [State.slot]
@[simp] theorem output_endCompaction (j : OutputNum) : (s.endCompaction).output j = s.output j := by simp [State.output]

/-! ## afterByteTake -/

@[simp] theorem afterByteTake_inReset (i : SerialChannel) (t : Time) : (s.afterByteTake i t).inReset = s.inReset := (afterByteTake_keeps s i t).inReset
@[simp] theorem afterByteTake_lines (i : SerialChannel) (t : Time) : (s.afterByteTake i t).lines = s.lines := (afterByteTake_keeps s i t).lines rfl
@[simp] theorem afterByteTake_debounce (i : SerialChannel) (t : Time) : (s.afterByteTake i t).debounce = s.debounce := (afterByteTake_keeps s i t).debounce
@[simp] theorem afterByteTake_slots (i : SerialChannel) (t : Time) : (s.afterByteTake i t).slots = s.slots := (afterByteTake_keeps s i t).slots rfl
@[simp] theorem afterByteTake_pool (i : SerialChannel) (t : Time) : (s.afterByteTake i t).pool = s.pool := (afterByteTake_keeps s i t).pool rfl
@[simp] theorem afterByteTake_lastServed (i : SerialChannel) (t : Time) : (s.afterByteTake i t).lastServed = s.lastServed := (afterByteTake_keeps s i t).lastServed
@[simp] theorem afterByteTake_eventQueue (i : SerialChannel) (t : Time) : (s.afterByteTake i t).eventQueue = s.eventQueue := (afterByteTake_keeps s i t).eventQueue rfl
@[simp] theorem afterByteTake_eventLevels (i : SerialChannel) (t : Time) : (s.afterByteTake i t).eventLevels = s.eventLevels := (afterByteTake_keeps s i t).eventLevels
@[simp] theorem afterByteTake_outputs (i : SerialChannel) (t : Time) : (s.afterByteTake i t).outputs = s.outputs := (afterByteTake_keeps s i t).outputs rfl
@[simp] theorem afterByteTake_staging (i : SerialChannel) (t : Time) : (s.afterByteTake i t).staging = s.staging := (afterByteTake_keeps s i t).staging
@[simp] theorem afterByteTake_operand (i : SerialChannel) (t : Time) : (s.afterByteTake i t).operand = s.operand := (afterByteTake_keeps s i t).operand
@[simp] theorem afterByteTake_pendingCommand (i : SerialChannel) (t : Time) : (s.afterByteTake i t).pendingCommand = s.pendingCommand := (afterByteTake_keeps s i t).pendingCommand
@[simp] theorem afterByteTake_compacting (i : SerialChannel) (t : Time) : (s.afterByteTake i t).compacting = s.compacting := (afterByteTake_keeps s i t).compacting rfl
@[simp] theorem afterByteTake_arbiterMode (i : SerialChannel) (t : Time) : (s.afterByteTake i t).arbiterMode = s.arbiterMode := (afterByteTake_keeps s i t).arbiterMode
@[simp] theorem afterByteTake_grant (i : SerialChannel) (t : Time) : (s.afterByteTake i t).grant = s.grant := (afterByteTake_keeps s i t).grant rfl
@[simp] theorem afterByteTake_timeBase (i : SerialChannel) (t : Time) : (s.afterByteTake i t).timeBase = s.timeBase := (afterByteTake_keeps s i t).timeBase
@[simp] theorem afterByteTake_chanSel (i : SerialChannel) (t : Time) : (s.afterByteTake i t).chanSel = s.chanSel := (afterByteTake_keeps s i t).chanSel
@[simp] theorem afterByteTake_configAddr (i : SerialChannel) (t : Time) : (s.afterByteTake i t).configAddr = s.configAddr := (afterByteTake_keeps s i t).configAddr
@[simp] theorem afterByteTake_pending (i : SerialChannel) (t : Time) : (s.afterByteTake i t).pending = s.pending := (afterByteTake_keeps s i t).pending
@[simp] theorem line_afterByteTake (i : SerialChannel) (t : Time) (j : LineNum) : (s.afterByteTake i t).line j = s.line j := by simp [State.line]
@[simp] theorem slot_afterByteTake (i : SerialChannel) (t : Time) (j : PatternNum) : (s.afterByteTake i t).slot j = s.slot j := by simp [State.slot]
@[simp] theorem output_afterByteTake (i : SerialChannel) (t : Time) (j : OutputNum) : (s.afterByteTake i t).output j = s.output j := by simp [State.output]

end Sys2Proof.Machine
end

