-- ==== Sys2Proof/Laws/Commands.lean ====
section
/-! SUPPORT. Table commands (chapter 8): the checks of R151 as they come out. -/

namespace Sys2Proof.Machine

/-- The LO and HI registers of a stamp together. -/
theorem bytes_stamp (h : Half) : (loByte h).toNat + 256 * (hiByte h).toNat = h.toNat := by
  have := h.isLt
  simp [loByte, hiByte, byteOf]
  omega

theorem commandGranted_iff (s : State) (v : Byte) : s.commandGranted v = true ↔ CommandGranted s v := by
  unfold State.commandGranted CommandGranted
  cases s.pendingCommand <;> simp

/-- R151: a command taken at its grant records its code and result, whatever its work does. -/
theorem takeCommand_eq {s : State} {v : Byte} (h : CommandGranted s v) (w : State → Taken) :
    s.takeCommand v w = (w s).2.recorded v (w s).1 := by
  rw [← commandGranted_iff] at h
  simp only [State.takeCommand, h, if_true]
  rfl

theorem stepGranted_iff (s : State) : s.stepGranted = true ↔ StepGranted s := by
  unfold State.stepGranted StepGranted
  cases s.pendingCommand <;> simp

theorem withSlot_eq {s : State} {n : PatternNum} (h : s.operand.toNat = n.val) (w : PatternNum → Taken) :
    withSlot s w = w n := by
  have : s.operandSlot? = some n := by
    unfold State.operandSlot?; rw [dif_pos (by omega)]; congr 1; exact Fin.ext h
  simp [withSlot, this]

theorem withSlot_bad {s : State} (h : 64 ≤ s.operand.toNat) (w : PatternNum → Taken) :
    withSlot s w = (.badSlot, s) := by
  have : s.operandSlot? = none := by
    unfold State.operandSlot?; rw [dif_neg (by omega)]
  simp [withSlot, this]

/-- R23: what leaving ARMED does, as one update. -/
theorem leaveArmed_eq (s : State) (n : PatternNum) :
    s.leaveArmed n =
      { s.setSlot n (s.slot n).disarm with
        chans := Vector.ofFn fun ch =>
          { s.chan ch with
            candidates := (s.chan ch).candidates.filter fun c => c.pattern ≠ n
            lockouts := (s.chan ch).lockouts.filter fun l => l.pattern ≠ n } } := by
  unfold State.leaveArmed State.cancelPattern State.removeLockouts State.keepCandidates
  rw [forEach_modChan (s := s.setSlot n _)
    (f := fun _ x => { x with candidates := x.candidates.filter fun c => c.pattern != n })]
  rw [forEach_modChan (f := fun _ x => { x with lockouts := x.lockouts.filter fun c => c.pattern != n })]
  simp
  constructor

end Sys2Proof.Machine
end

