-- ==== Sys2Proof/Laws/Events.lean ====
section
/-! SUPPORT. The event unit (chapter 6): an offer commutes with a change of a channel, the highest and the lowest
level of a queue, and the lines that follow it. -/

namespace Sys2Proof.Machine

theorem enqueueEvent_setChan (s : State) (ch : Channel) (x : Chan) (e : EventRecord) :
    (s.setChan ch x).enqueueEvent e = (s.enqueueEvent e).setChan ch x := by
  unfold State.enqueueEvent
  simp only [setChan_eventQueue]
  by_cases h1 : s.eventQueue.length < Config.eventDepth
  · simp only [h1, if_true]; rfl
  · by_cases h2 : lowestLevel s.eventQueue < e.level
    · simp only [h1, h2, if_true, if_false]; rfl
    · simp only [h1, h2, if_false]; rfl

theorem createEvent_setChan (s : State) (ch : Channel) (x : Chan) (l : EventLevel) (o : Offer) :
    (s.setChan ch x).createEvent l o = (s.createEvent l o).setChan ch x := by
  unfold State.createEvent
  rw [show ({ (s.setChan ch x) with eventSeq := (s.setChan ch x).eventSeq + 1 } : State)
      = State.setChan { s with eventSeq := s.eventSeq + 1 } ch x from rfl, enqueueEvent_setChan]
  rfl

theorem offer_setChan (s : State) (ch : Channel) (x : Chan) (o : Offer) :
    (s.setChan ch x).offer o = (s.offer o).setChan ch x := by
  unfold State.offer
  rw [show (s.setChan ch x).tableLevel o.kind = s.tableLevel o.kind from rfl]
  split
  · exact createEvent_setChan s ch x _ o
  · rfl

theorem offer_modChan (s : State) (ch : Channel) (f : Chan → Chan) (o : Offer) :
    (s.modChan ch f).offer o = (s.offer o).modChan ch f := by
  unfold State.modChan
  rw [offer_setChan, chan_offer]

theorem foldl_min_level (q : List EventRecord) (m : EventLevel) :
    (∀ e ∈ q, q.foldl (fun m e => min m e.level) m ≤ e.level) ∧ q.foldl (fun m e => min m e.level) m ≤ m
      ∧ (q.foldl (fun m e => min m e.level) m = m ∨ ∃ e ∈ q, q.foldl (fun m e => min m e.level) m = e.level) := by
  induction q generalizing m with
  | nil => simp
  | cons a q ih =>
    obtain ⟨h1, h2, h3⟩ := ih (min m a.level)
    refine ⟨?_, ?_, ?_⟩
    · intro e he
      rcases List.mem_cons.mp he with rfl | he
      · exact le_trans h2 (min_le_right _ _)
      · exact h1 e he
    · exact le_trans h2 (min_le_left _ _)
    · simp only [List.foldl_cons]
      rcases h3 with h3 | ⟨e, he, h3⟩
      · rw [h3]
        rcases min_choice m a.level with h | h
        · exact .inl h
        · right; exact ⟨a, List.mem_cons_self, h⟩
      · right; exact ⟨e, List.mem_cons_of_mem _ he, h3⟩

theorem lowestLevel_le {q : List EventRecord} {e : EventRecord} (h : e ∈ q) : lowestLevel q ≤ e.level :=
  (foldl_min_level q 3).1 e h

theorem lowestLevel_eq {q : List EventRecord} {v : EventRecord} (h : v ∈ q) (hl : ∀ e ∈ q, v.level ≤ e.level) :
    lowestLevel q = v.level := by
  apply le_antisymm (lowestLevel_le h)
  rcases (foldl_min_level q 3).2.2 with h3 | ⟨e, he, h3⟩
  · unfold lowestLevel; rw [h3]; exact Fin.le_last v.level
  · unfold lowestLevel; rw [h3]; exact hl e he

theorem lowestLevel_attained {q : List EventRecord} (h : q ≠ []) : ∃ e ∈ q, lowestLevel q = e.level := by
  rcases (foldl_min_level q 3).2.2 with h3 | ⟨e, he, h3⟩
  · obtain ⟨a, ha⟩ := List.exists_mem_of_ne_nil q h
    refine ⟨a, ha, le_antisymm (lowestLevel_le ha) ?_⟩
    unfold lowestLevel; rw [h3]; exact Fin.le_last _
  · exact ⟨e, he, h3⟩

/-- R124: what is evicted, the youngest event of the lowest level. -/
theorem withoutYoungestLowest_eq {pre post : List EventRecord} {v : EventRecord} (h1 : ∀ q ∈ pre, v.level ≤ q.level)
    (h2 : ∀ q ∈ post, v.level < q.level) :
    withoutYoungestLowest (pre ++ v :: post) = pre ++ post := by
  unfold withoutYoungestLowest
  rw [lowestLevel_eq (v := v) (by simp)]
  · rw [List.reverse_append, List.reverse_cons, List.append_assoc, List.eraseP_append_right]
    · simp
    · intro b hb; simp at hb ⊢; exact Fin.ne_of_gt (h2 b hb)
  · intro e he
    simp at he
    rcases he with he | rfl | he
    · exact h1 e he
    · exact le_refl _
    · exact le_of_lt (h2 e he)

theorem markLost_get (s : State) (l k : EventLevel) : (s.markLost l).lostMask[k] = (s.lostMask[k] || k == l) := by
  unfold State.markLost
  rw [Fin.getElem_fin, Vector.getElem_set]
  by_cases h : l = k
  · subst h; simp
  · have : ¬ l.val = k.val := fun e => h (Fin.ext e)
    simp [this, Ne.symm h]

theorem foldl_max_level (q : List EventRecord) (m : EventLevel) :
    (∀ e ∈ q, e.level ≤ q.foldl (fun m e => max m e.level) m) ∧ m ≤ q.foldl (fun m e => max m e.level) m
      ∧ (q.foldl (fun m e => max m e.level) m = m ∨ ∃ e ∈ q, q.foldl (fun m e => max m e.level) m = e.level) := by
  induction q generalizing m with
  | nil => simp
  | cons a q ih =>
    obtain ⟨h1, h2, h3⟩ := ih (max m a.level)
    refine ⟨?_, ?_, ?_⟩
    · intro e he
      rcases List.mem_cons.mp he with rfl | he
      · exact le_trans (le_max_right _ _) h2
      · exact h1 e he
    · exact le_trans (le_max_left _ _) h2
    · simp only [List.foldl_cons]
      rcases h3 with h3 | ⟨e, he, h3⟩
      · rw [h3]
        rcases max_choice m a.level with h | h
        · exact .inl h
        · right; exact ⟨a, List.mem_cons_self, h⟩
      · right; exact ⟨e, List.mem_cons_of_mem _ he, h3⟩

theorem highestLevel_eq {q : List EventRecord} {v : EventRecord} (h : v ∈ q) (hl : ∀ e ∈ q, e.level ≤ v.level) :
    highestLevel q = v.level := by
  apply le_antisymm
  · rcases (foldl_max_level q 0).2.2 with h3 | ⟨e, he, h3⟩
    · unfold highestLevel; rw [h3]; exact Fin.zero_le v.level
    · unfold highestLevel; rw [h3]; exact hl e he
  · exact (foldl_max_level q 0).1 v h

theorem intCondition_iff (s : State) :
    s.intCondition = true ↔ ∃ e ∈ s.eventQueue, e.level = 3 ∨ (s.intEnable = true ∧ s.intFloor ≤ e.level) := by
  simp [State.intCondition]

theorem wakeCondition_iff (s : State) : s.wakeCondition = true ↔ ∃ e ∈ s.eventQueue, s.wakeFloor.val ≤ e.level.val := by
  simp [State.wakeCondition]

/-- R133: what a refresh leaves of INT and WAKE. -/
theorem refreshLines_follow (s : State) : LinesFollowQueue s.refreshLines :=
  ⟨intCondition_iff s, wakeCondition_iff s⟩

end Sys2Proof.Machine
end

