-- ==== Sys2Proof/Laws/Operands.lean ====
section
/-! SUPPORT. Lemmas of the byte layouts: which byte of the configuration space an address names, the coded fields, and
the values that a written byte must have to be accepted. -/

namespace Sys2Proof.Machine

/-! ## The configuration space (R194) -/

theorem configTarget_mode : ∀ (a : Fin 64) (ch : Channel), a.val = ch.val → configTarget a = .mode ch := by decide
theorem configTarget_lineSettings :
    ∀ (a : Fin 64) (i : SerialChannel), a.val = 0x04 + i.val → configTarget a = .lineSettings i := by decide
theorem configTarget_prefixWindow :
    ∀ (a : Fin 64) (i : SerialChannel), a.val = 0x07 + i.val → configTarget a = .prefixWindow i := by decide
theorem configTarget_holdLimit :
    ∀ (a : Fin 64) (ch : Channel), a.val = 0x0A + ch.val → configTarget a = .holdLimit ch := by decide
theorem configTarget_tailWindow :
    ∀ (a : Fin 64) (ch : Channel), a.val = 0x0E + ch.val → configTarget a = .tailWindow ch := by decide
theorem configTarget_linesEnable : ∀ a : Fin 64, a.val = 0x12 → configTarget a = .linesEnable := by decide
theorem configTarget_linesPolarity : ∀ a : Fin 64, a.val = 0x13 → configTarget a = .linesPolarity := by decide
theorem configTarget_debounce : ∀ a : Fin 64, a.val = 0x14 → configTarget a = .debounce := by decide
theorem configTarget_eventLevel :
    ∀ (a : Fin 64) (k : Fin 7), a.val = 0x15 + k.val → configTarget a = .eventLevel k := by decide
theorem configTarget_intCtrl : ∀ a : Fin 64, a.val = 0x1C → configTarget a = .intCtrl := by decide
theorem configTarget_wakeFloor : ∀ a : Fin 64, a.val = 0x1D → configTarget a = .wakeFloor := by decide
theorem configTarget_pulseWidth :
    ∀ (a : Fin 64) (o : OutputNum), a.val = 0x1E + o.val → configTarget a = .pulseWidth o := by decide
theorem configTarget_arbiterMode : ∀ a : Fin 64, a.val = 0x22 → configTarget a = .arbiterMode := by decide
theorem configTarget_unused : ∀ a : Fin 64, 0x22 < a.val → configTarget a = .unused := by decide

/-! ## Coded values -/

@[simp] theorem modeOf?_zero : modeOf? 0#8 = some .off := rfl
@[simp] theorem modeOf?_one : modeOf? 1#8 = some .bypass := rfl
@[simp] theorem modeOf?_two : modeOf? 2#8 = some .matching := rfl
@[simp] theorem activeModeOf?_one : activeModeOf? 1#8 = some .bypass := rfl
@[simp] theorem activeModeOf?_two : activeModeOf? 2#8 = some .matching := rfl

theorem modeOf?_none {v : Byte} (h : 2 < v.toNat) : modeOf? v = none := by
  unfold modeOf?
  split <;> first | omega | rfl

theorem eventLevelOf?_level {v : Byte} {l : EventLevel} (h : l.val = v.toNat) : eventLevelOf? v = some (some l) := by
  obtain rfl : v = BitVec.ofNat 8 l.val := BitVec.eq_of_toNat_eq (by simp [h])
  fin_cases l <;> rfl

theorem eventLevelOf?_none {v : Byte} (h : 4 < v.toNat) : eventLevelOf? v = none := by
  unfold eventLevelOf?
  split <;> first | omega | rfl

theorem arbiterModeOf?_none {v : Byte} (h : 2 < v.toNat) : arbiterModeOf? v = none := by
  unfold arbiterModeOf?
  split <;> first | omega | rfl

theorem classOf?_none {v : Byte} (h : 5 ≤ v.toNat) : classOf? v = none := by
  unfold classOf?
  split <;> first | omega | rfl

theorem fieldAt_lt (b : Byte) (lo w : Nat) : fieldAt b lo w < 2 ^ w := Nat.mod_lt _ (Nat.two_pow_pos w)

/-! ## Channels -/

@[simp] theorem serialOf?_serialChannel (i : SerialChannel) : serialOf? (serialChannel i) = some i := by
  fin_cases i <;> rfl
@[simp] theorem serialOf?_lineChannel : serialOf? lineChannel = none := rfl
theorem serialOf?_eq_some {ch : Channel} {i : SerialChannel} : serialOf? ch = some i ↔ serialChannel i = ch := by
  revert ch i; decide
theorem serialChannel_injective {i j : SerialChannel} (h : serialChannel i = serialChannel j) : i = j := by
  revert i j; decide
theorem serialChannel_ne_lineChannel (i : SerialChannel) : serialChannel i ≠ lineChannel := by revert i; decide
theorem serialOf?_eq_none {ch : Channel} : serialOf? ch = none ↔ ch = lineChannel := by revert ch; decide

end Sys2Proof.Machine
end

