-- ==== Sys2Proof/Laws/Expiry.lean ====
section
/-! SUPPORT. Waiting and expiry (R74, R75). -/

namespace Sys2Proof.Machine

theorem atOrBefore_iff (t : Option Time) (d : Time) : atOrBefore t d = true ↔ ∃ x ∈ t, x ≤ d := by
  cases t <;> simp [atOrBefore]

theorem waitingBy_iff (s : State) (ch : Channel) (d : Time) : s.waitingBy ch d = true ↔ WaitsBy s ch d := by
  unfold State.waitingBy WaitsBy
  simp only [Bool.or_eq_true, List.any_eq_true, decide_eq_true_eq, atOrBefore_iff, or_assoc]
  refine or_congr Iff.rfl (or_congr ?_ ?_)
  · unfold State.prefixStampOf
    rcases h : serialOf? ch with _ | i
    · simp
      intro j hj
      rw [serialOf?_eq_none] at h
      exact absurd (hj.trans h) (serialChannel_ne_lineChannel j)
    · rw [serialOf?_eq_some] at h
      subst h
      dsimp only
      have hp : (s.ser i).assembler.hasPrefix = true ↔
          ((s.ser i).assembler.ext ≠ .plain ∨ (s.ser i).assembler.rel = true) := by simp [Assembler.hasPrefix]
      constructor
      · rintro ⟨x, hx, hd⟩
        split at hx
        · exact ⟨i, rfl, hp.mp ‹_›, x, hx, hd⟩
        · simp at hx
      · rintro ⟨j, hj, h1, x, hx, hd⟩
        obtain rfl := serialChannel_injective hj
        refine ⟨x, ?_, hd⟩
        rw [if_pos (hp.mpr h1)]; exact hx
  · cases (s.chan ch).ready <;> simp

/-- R75. -/
theorem expirable_iff (s : State) (ch : Channel) (d : Time) :
    s.expirable ch d = true ↔ d < s.timeBase ∧ ¬WaitsBy s ch d := by
  rw [← waitingBy_iff]
  simp [State.expirable]

theorem filter_eraseP {α} (l : List α) (p q : α → Bool) (h : ∀ a, l.find? p = some a → q a = false) :
    (l.eraseP p).filter q = l.filter q := by
  induction l with
  | nil => rfl
  | cons a l ih =>
    by_cases hp : p a
    · rw [List.eraseP_cons_of_pos hp, List.filter_cons_of_neg]
      simpa using h a (by simp [List.find?, hp])
    · rw [List.eraseP_cons_of_neg hp]
      have := ih fun b hb => h b (by simp [List.find?, hp, hb])
      simp [List.filter_cons, this]

theorem takeChange_none {s : State} {n : LineNum} (h : s.changeDue n = false) : s.takeChange n = s := by
  unfold State.takeChange
  split
  · simp [h]
  · rfl

theorem forEach_same {α} {f : State → α → State} {s : State} (l : List α) (h : ∀ a ∈ l, f s a = s) :
    forEach l f s = s := by
  induction l with
  | nil => rfl
  | cons a l ih =>
    show forEach l f (f s a) = s
    rw [h a List.mem_cons_self]; exact ih fun b hb => h b (List.mem_cons_of_mem a hb)

theorem changeDue_false {s : State} {n : LineNum}
    (h : ∀ p ∈ (s.line n).change, s.timeBase < p.time + s.debounce.toNat) : s.changeDue n = false := by
  unfold State.changeDue
  cases hc : (s.line n).change with
  | none => rfl
  | some p => simp [atOrBefore]; exact h p hc

end Sys2Proof.Machine
end

