-- ==== Sys2Proof/Laws/Grant.lean ====
section
/-! SUPPORT. The event of a grant (R172): when there is none to take, what it is when there is one, and what no such
event changes. -/

namespace Sys2Proof.Machine

variable {s : State}

/-! ## With no event outstanding -/

theorem grantTaken_settled (h : Settled s) : s.grantTaken = s := by
  unfold State.grantTaken
  split
  · exact absurd ‹_› h.1
  · exact absurd ‹_› h.2
  · rfl
  · rfl

theorem afterGrant_settled (h : Settled s) (f : State → State) : afterGrant s f = .next (f s) := by
  rw [afterGrant, grantTaken_settled h]

theorem hostAccess_run (hr : s.inReset = false) (h : Settled s) (f : State → State) : hostAccess s f = .next (f s) := by
  simp [hostAccess, hr, grantTaken_settled h]

theorem hostRead_run (hr : s.inReset = false) (h : Settled s) (value : State → Byte) (f : State → State) :
    hostRead s value f = .next { f s with dataOut := value s } := by
  simp [hostRead, hr, grantTaken_settled h]

theorem readRegister_run (hr : s.inReset = false) (h : Settled s) (a : Fin 32) : s.readRegister a = s.registerByte a := by
  simp [State.readRegister, hr, grantTaken_settled h]

/-! ## What the event is -/

theorem grantTaken_matchUnit (h : s.grant = .decided .matchUnit) : s.grantTaken = s.matchPass := by
  simp [State.grantTaken, h]

theorem grantTaken_command {v : Byte} (h : CommandGranted s v) :
    s.grantTaken = (s.judge v).2.recorded v (s.judge v).1 := by
  simp only [State.grantTaken, h.1, State.tableEvent, h.2]
  exact takeCommand_eq h _

theorem grantTaken_step (h : StepGranted s) : s.grantTaken = s.takeStep := by
  simp [State.grantTaken, h.1, State.tableEvent, h.2.2, (stepGranted_iff s).mpr h]

/-- R202: a code that is none of the eight names no command. -/
theorem namesNoCommand_of (v : Byte) (h1 : v ≠ codeDefine) (h2 : v ≠ codeArm) (h3 : v ≠ codeDisarm)
    (h4 : v ≠ codeDelete) (h5 : v ≠ codeReadBack) (h6 : v ≠ codeClearLockout) (h7 : v ≠ codeCompact)
    (h8 : v ≠ codeRuntimeReset) : namesNoCommand v = true := by
  unfold codeDefine codeArm codeDisarm codeDelete codeReadBack codeClearLockout codeCompact codeRuntimeReset at *
  simp only [namesNoCommand, Bool.or_eq_true, beq_iff_eq, decide_eq_true_eq]
  bv_omega

/-- Each way the event of a grant can go is one of the commands that are such events. -/
theorem exec_grantTaken (s : State) : ∃ g, isGrantEvent g = true ∧ exec g s = .next s.grantTaken := by
  unfold State.grantTaken
  split
  · exact ⟨.matchPass, rfl, rfl⟩
  · unfold State.tableEvent
    split
    · rename_i v hv
      unfold State.judge
      by_cases h1 : v = codeDefine
      · subst h1; exact ⟨.define, rfl, rfl⟩
      by_cases h2 : v = codeArm
      · subst h2; exact ⟨.arm, rfl, rfl⟩
      by_cases h3 : v = codeDisarm
      · subst h3; exact ⟨.disarm, rfl, rfl⟩
      by_cases h4 : v = codeDelete
      · subst h4; exact ⟨.delete, rfl, rfl⟩
      by_cases h5 : v = codeReadBack
      · subst h5; exact ⟨.readBack, rfl, rfl⟩
      by_cases h6 : v = codeClearLockout
      · subst h6; exact ⟨.clearLockout, rfl, rfl⟩
      by_cases h7 : v = codeCompact
      · subst h7; exact ⟨.compact, rfl, rfl⟩
      by_cases h8 : v = codeRuntimeReset
      · subst h8; exact ⟨.runtimeReset, rfl, rfl⟩
      refine ⟨.badCommand, rfl, ?_⟩
      simp [exec, execBadCommand, hv, namesNoCommand_of v h1 h2 h3 h4 h5 h6 h7 h8, h1, h2, h3, h4, h5, h6, h7, h8]
    · split
      · rename_i h
        unfold State.takeStep
        split
        · rename_i n hn; exact ⟨.compactionMove, rfl, by simp [exec, execCompactionMove, h, hn]⟩
        · rename_i hn; exact ⟨.compactionEnd, rfl, by simp [exec, execCompactionEnd, h, hn]⟩
      · rename_i h; exact ⟨.compactionMove, rfl, by simp [exec, execCompactionMove, h]⟩
  · exact ⟨.matchPass, rfl, by simp [exec, execMatchPass, State.matchPass, *]⟩
  · exact ⟨.matchPass, rfl, by simp [exec, execMatchPass, State.matchPass, *]⟩

/-- What the events of grants keep, the event at a grant keeps. -/
theorem grantTaken_invariant {P : State → Prop}
    (h : ∀ g t, isGrantEvent g = true → exec g s = .next t → P t) : P s.grantTaken := by
  obtain ⟨g, hg, e⟩ := exec_grantTaken s
  exact h g _ hg e

/-- R202: a code that names no command is judged so. -/
theorem judge_unknown {v : Byte} (u : State) (h : namesNoCommand v = true) : u.judge v = u.judgeUnknown := by
  have ne (c : Byte) (hc : namesNoCommand c = false) : v ≠ c := by rintro rfl; simp [h] at hc
  simp [State.judge, ne codeDefine rfl, ne codeArm rfl, ne codeDisarm rfl, ne codeDelete rfl, ne codeReadBack rfl,
    ne codeClearLockout rfl, ne codeCompact rfl, ne codeRuntimeReset rfl]

/-- The command that is taken is the event of its grant. -/
theorem takeCommand_taken {v : Byte} {w : State → Taken} {a : Claimant} (hw : ∀ t : State, t.judge v = w t)
    (hs : s.grant = .decided a) (h : (s.takeCommand v w).grant = .held a) : s.takeCommand v w = s.grantTaken := by
  by_cases hc : CommandGranted s v
  · rw [grantTaken_command hc, takeCommand_eq hc, hw]
  · rw [← commandGranted_iff] at hc
    simp [State.takeCommand, hc, hs] at h

/-- The command that turns a decided grant into a held one is the event at the grant. -/
theorem grantEvent_taken {t : State} {a : Claimant} {g : Instr} (hg : isGrantEvent g = true) (hs : s.grant = .decided a)
    (e : exec g s = .next t) (h : t.grant = .held a) : t = s.grantTaken := by
  have taken {v : Byte} {w : State → Taken} (hw : ∀ t : State, t.judge v = w t)
      (e : s.takeCommand v w = t) : t = s.grantTaken := by
    subst e; exact takeCommand_taken hw hs h
  cases g <;> first | (exact absurd hg Bool.false_ne_true) | skip
  case matchPass =>
    cases e
    by_cases hm : s.grant = .decided .matchUnit
    · rw [grantTaken_matchUnit hm]
    · rw [State.matchPass, if_neg hm, hs] at h; cases h
  case define => exact taken (fun _ => rfl) (Host.Outcome.next.inj e)
  case arm => exact taken (fun _ => rfl) (Host.Outcome.next.inj e)
  case disarm => exact taken (fun _ => rfl) (Host.Outcome.next.inj e)
  case delete => exact taken (fun _ => rfl) (Host.Outcome.next.inj e)
  case readBack => exact taken (fun _ => rfl) (Host.Outcome.next.inj e)
  case clearLockout => exact taken (fun _ => rfl) (Host.Outcome.next.inj e)
  case compact => exact taken (fun _ => rfl) (Host.Outcome.next.inj e)
  case runtimeReset => exact taken (fun _ => rfl) (Host.Outcome.next.inj e)
  case badCommand =>
    simp only [exec, execBadCommand, Host.Outcome.next.injEq] at e
    split at e
    · split at e
      · rename_i v hv hn
        refine taken (v := v) (w := State.judgeUnknown) (fun u => judge_unknown u hn) e
      · subst e; simp [hs] at h
    · subst e; simp [hs] at h
  case compactionMove =>
    simp only [exec, execCompactionMove, Host.Outcome.next.injEq] at e
    split at e
    · rename_i hst
      split at e
      · rename_i n hn
        rw [grantTaken_step ((stepGranted_iff s).mp hst), ← e]; simp [State.takeStep, hn]
      · subst e; simp [hs] at h
    · subst e; simp [hs] at h
  case compactionEnd =>
    simp only [exec, execCompactionEnd, Host.Outcome.next.injEq] at e
    split at e
    · rename_i hst
      simp only [Bool.and_eq_true, Option.isNone_iff_eq_none] at hst
      rw [grantTaken_step ((stepGranted_iff s).mp hst.1), ← e]; simp [State.takeStep, hst.2]
    · subst e; simp [hs] at h

/-! ## What no such event changes -/

/-- `t` agrees with `s` on what no event of a grant changes: the lines, the settings, the address registers, the time
base and the commands that wait. -/
structure SameSetting (s t : State) : Prop where
  inReset : t.inReset = s.inReset
  dataOut : t.dataOut = s.dataOut
  lines : t.lines = s.lines
  debounce : t.debounce = s.debounce
  eventLevels : t.eventLevels = s.eventLevels
  intEnable : t.intEnable = s.intEnable
  intFloor : t.intFloor = s.intFloor
  wakeFloor : t.wakeFloor = s.wakeFloor
  stageAddr : t.stageAddr = s.stageAddr
  operand : t.operand = s.operand
  arbiterMode : t.arbiterMode = s.arbiterMode
  timeBase : t.timeBase = s.timeBase
  chanSel : t.chanSel = s.chanSel
  configAddr : t.configAddr = s.configAddr
  classSel : t.classSel = s.classSel
  classAddr : t.classAddr = s.classAddr
  pending : t.pending = s.pending
  rxMark : ∀ i, (t.ser i).rxMark = (s.ser i).rxMark

theorem SameSetting.refl (s : State) : SameSetting s s := by constructor <;> intros <;> rfl

theorem SameSetting.trans {t u : State} (h : SameSetting s t) (k : SameSetting t u) : SameSetting s u where
  inReset := k.inReset.trans h.inReset
  dataOut := k.dataOut.trans h.dataOut
  lines := k.lines.trans h.lines
  debounce := k.debounce.trans h.debounce
  eventLevels := k.eventLevels.trans h.eventLevels
  intEnable := k.intEnable.trans h.intEnable
  intFloor := k.intFloor.trans h.intFloor
  wakeFloor := k.wakeFloor.trans h.wakeFloor
  stageAddr := k.stageAddr.trans h.stageAddr
  operand := k.operand.trans h.operand
  arbiterMode := k.arbiterMode.trans h.arbiterMode
  timeBase := k.timeBase.trans h.timeBase
  chanSel := k.chanSel.trans h.chanSel
  configAddr := k.configAddr.trans h.configAddr
  classSel := k.classSel.trans h.classSel
  classAddr := k.classAddr.trans h.classAddr
  pending := k.pending.trans h.pending
  rxMark i := (k.rxMark i).trans (h.rxMark i)

theorem SameSetting.of_keeps {p : Parts} {t : State} (h : Keeps p s t) (h1 : p.serial = false) (h2 : p.lines = false) :
    SameSetting s t where
  inReset := h.inReset
  dataOut := h.dataOut
  lines := h.lines h2
  debounce := h.debounce
  eventLevels := h.eventLevels
  intEnable := h.intEnable
  intFloor := h.intFloor
  wakeFloor := h.wakeFloor
  stageAddr := h.stageAddr
  operand := h.operand
  arbiterMode := h.arbiterMode
  timeBase := h.timeBase
  chanSel := h.chanSel
  configAddr := h.configAddr
  classSel := h.classSel
  classAddr := h.classAddr
  pending := h.pending
  rxMark i := by simp only [State.ser, h.serial h1]

theorem matchPass_setting (s : State) : SameSetting s s.matchPass := by
  unfold State.matchPass
  split
  · split
    · split
      · refine SameSetting.trans ?_ (.of_keeps (runPass_keeps _ _ _) rfl rfl)
        constructor <;> intros <;> rfl
      · exact .refl s
    · exact .refl s
  · exact .refl s

theorem runtimeReset_setting (s : State) : SameSetting s s.runtimeReset := by
  unfold State.runtimeReset
  dsimp only
  have h1 : Keeps { chans := true } s (forEach allChannels (fun t ch => t.modChan ch Chan.runtimeReset) s) :=
    Keeps.forEach (fun t a => modChan_keeps t _ _) allChannels s
  have h2 (u : State) : SameSetting u (forEach [0, 1, 2] State.discardPrefix u) := by
    have e : forEach [0, 1, 2] State.discardPrefix u = { u with serial := Vector.ofFn fun k =>
        { u.ser k with assembler := .clear } } := forEach_modSer u fun _ x => { x with assembler := .clear }
    rw [e]
    constructor <;> intros <;> first | rfl | simp [State.ser]
  have h3 (u : State) := Keeps.forEach (p := { outputs := true })
    (f := fun t o => t.modOutput o fun x => { x with level := .low, deadline := none })
    (fun t a => modOutput_keeps t _ _) allOutputs u
  refine ((SameSetting.of_keeps h1 rfl rfl).trans (h2 _)).trans ((SameSetting.of_keeps (h3 _) rfl rfl).trans ?_)
  constructor <;> intros <;> rfl

theorem judge_setting (s : State) (v : Byte) : SameSetting s (s.judge v).2 := by
  have hu (w : Taken) (h : SameSetting s w.2) : SameSetting s (unlessCompacting s w).2 := by
    unfold unlessCompacting; split
    · exact .refl s
    · exact h
  have hs (w : PatternNum → Taken) (h : ∀ n, SameSetting s (w n).2) : SameSetting s (withSlot s w).2 := by
    unfold withSlot; split
    · exact h _
    · exact .refl s
  have hg (r : Vector Byte 58) : SameSetting s { s with staging := r } := by constructor <;> intros <;> rfl
  have k {p : Parts} {t : State} (h : Keeps p s t) (h1 : p.serial = false := by rfl) (h2 : p.lines = false := by rfl) :
      SameSetting s t := .of_keeps h h1 h2
  unfold State.judge
  split
  · refine hu _ (hs _ fun n => ?_)
    have hd : SameSetting s (s.defineSlot n).2 := by
      unfold State.defineSlot
      split
      · exact .refl s
      · split
        · exact .refl s
        · exact k (placeRun_keeps s n _ _ _)
    unfold State.defineWork
    split
    · exact .refl s
    · exact hd
    · exact hd
  split
  · refine hs _ fun n => ?_
    unfold State.armWork
    split
    · exact .refl s
    · exact k (setSlot_keeps s n _)
    · exact .refl s
  split
  · refine hs _ fun n => ?_
    unfold State.disarmWork
    split
    · exact .refl s
    · exact .refl s
    · exact k (leaveArmed_keeps s n)
  split
  · refine hu _ (hs _ fun n => ?_)
    unfold State.deleteWork
    split
    · exact .refl s
    · exact k (setSlot_keeps s n .free)
    · exact .refl s
  split
  · refine hs _ fun n => ?_
    unfold State.readBackWork
    split
    · exact .refl s
    · exact hg _
  split
  · exact hs _ fun n => k (removeLockouts_keeps s _)
  split
  · exact hu _ (by constructor <;> intros <;> rfl)
  split
  · unfold State.judgeRuntimeReset
    exact runtimeReset_setting s
  · exact .refl s

theorem takeStep_setting (s : State) : SameSetting s s.takeStep := by
  have h : SameSetting s (s.useGrant .table) := by constructor <;> intros <;> rfl
  unfold State.takeStep
  split
  · exact h.trans (.of_keeps (compactionMove_keeps _ _) rfl rfl)
  · exact h.trans (.of_keeps (endCompaction_keeps _) rfl rfl)

/-- The event of a grant leaves the setting as it was. -/
theorem grantTaken_setting (s : State) : SameSetting s s.grantTaken := by
  unfold State.grantTaken
  split
  · exact matchPass_setting s
  · unfold State.tableEvent
    split
    · unfold State.takeCommand
      split
      · refine (judge_setting s ‹Byte›).trans ?_
        constructor <;> intros <;> rfl
      · exact .refl s
    · split
      · exact takeStep_setting s
      · exact .refl s
  · exact .refl s
  · exact .refl s

end Sys2Proof.Machine
end

