-- ==== Sys2Proof/Laws/Holding.lean ====
section
/-! SUPPORT. The hold boundary as a property of the candidates (R45, R91), and what the enforcement of the hold limit
does (R105). -/

namespace Sys2Proof.Machine

theorem le_min?_iff {l : List Nat} {a : Nat} : (∃ b ∈ l.min?, b ≤ a) ↔ ∃ b ∈ l, b ≤ a := by
  cases h : l.min? with
  | none => simp [List.min?_eq_none_iff] at h; simp [h]
  | some m =>
    rw [List.min?_eq_some_iff] at h
    simp only [Option.mem_def, Option.some.injEq, exists_eq_left']
    exact ⟨fun k => ⟨m, h.1, k⟩, fun ⟨b, hb, k⟩ => le_trans (h.2 b hb) k⟩

/-- R91 without the minimum: an entry is held when some swallowing candidate was born at or before it. -/
theorem heldBy_boundary (s : State) (ch : Channel) (x : Symbol) :
    heldBy (s.boundary ch) x = (s.chan ch).candidates.any fun c => s.swallowing c && decide (c.birth ≤ x.arrival) := by
  have h := @le_min?_iff (((s.chan ch).candidates.filter s.swallowing).map (·.birth)) x.arrival
  rw [Bool.eq_iff_iff]
  unfold heldBy State.boundary
  cases hb : (((s.chan ch).candidates.filter s.swallowing).map (·.birth)).min? with
  | none => rw [hb] at h; simp at h ⊢; intro c hc hs; simpa using h c hc hs
  | some b => rw [hb] at h; simp at h ⊢; rw [h]; constructor
              · rintro ⟨a, ⟨h1,h2⟩, h3⟩; exact ⟨a, h1, h2, h3⟩
              · rintro ⟨a, h1,h2, h3⟩; exact ⟨a, ⟨h1, h2⟩, h3⟩

theorem heldCount_eq (s : State) (ch : Channel) : s.heldCount ch = (heldEntries s ch).length := by
  unfold State.heldCount heldEntries heldUnder
  congr 2
  funext x
  exact heldBy_boundary s ch x

/-! ## The enforcement of the hold limit (R66, R105) -/

/-- R66: one cancellation takes the first swallowing candidate and leaves the others, every other field of the channel,
and every other channel. -/
theorem cancelOldestSwallowing_chan {s : State} {ch : Channel} {t : Time} :
    (s.cancelOldestSwallowing ch t).chan ch =
        { s.chan ch with candidates := (s.chan ch).candidates.eraseP s.swallowing }
      ∧ (∀ j, j ≠ ch → (s.cancelOldestSwallowing ch t).chan j = s.chan j)
      ∧ ∀ n, (s.cancelOldestSwallowing ch t).slot n = s.slot n := by
  unfold State.cancelOldestSwallowing
  cases h : (s.chan ch).candidates.find? s.swallowing with
  | some c =>
    refine ⟨?_, fun j hj => ?_, fun n => ?_⟩
    · dsimp only; rw [chan_offer, chan_modChan_same]
    · dsimp only; rw [chan_offer, chan_modChan_other _ _ hj]
    · dsimp only; rw [slot_offer]; rfl
  | none =>
    refine ⟨?_, fun _ _ => rfl, fun _ => rfl⟩
    dsimp only
    rw [List.eraseP_of_forall_not (by simpa using h)]

theorem swallowing_congr {s t : State} (h : ∀ n, t.slot n = s.slot n) : t.swallowing = s.swallowing := by
  funext c
  simp only [State.swallowing, State.swallows, h]

/-- Removing the first element that satisfies a test removes one of them and none of the rest. -/
theorem filter_eraseP_neg {α : Type} (p : α → Bool) (l : List α) :
    (l.eraseP p).filter (fun a => !p a) = l.filter fun a => !p a := by
  induction l with
  | nil => rfl
  | cons a l ih => by_cases h : p a <;> simp [h, ih]

theorem filter_eraseP_length {α : Type} (p : α → Bool) (l : List α) :
    ((l.eraseP p).filter p).length = (l.filter p).length - 1 := by
  induction l with
  | nil => rfl
  | cons a l ih =>
    by_cases h : p a
    · simp [h]
    · simp [h, ih]

/-- Without a swallowing candidate nothing is held (R91). -/
theorem heldEntries_eq_nil {s : State} {ch : Channel} (h : (s.chan ch).candidates.filter s.swallowing = []) :
    heldEntries s ch = [] := by
  unfold heldEntries heldUnder
  rw [List.filter_eq_nil_iff]
  rw [List.filter_eq_nil_iff] at h
  intro x _
  simp only [List.any_eq_true, Bool.and_eq_true, not_exists, not_and]
  intro c hc hs
  exact absurd hs (h c hc)

/-- R105: an enforcement that may cancel every swallowing candidate leaves a sublist of the candidates with every one
that does not swallow, no more held entries than the limit, and the rest of the channel and the others as they were. -/
theorem enforceHold_chan (s : State) (ch : Channel) (t : Time) (k : Nat)
    (hk : ((s.chan ch).candidates.filter s.swallowing).length ≤ k) :
    (∃ cs, (s.enforceHold ch t k).chan ch = { s.chan ch with candidates := cs } ∧ cs.Sublist (s.chan ch).candidates
        ∧ cs.filter (fun c => !s.swallowing c) = (s.chan ch).candidates.filter fun c => !s.swallowing c)
      ∧ (heldEntries (s.enforceHold ch t k) ch).length ≤ (s.chan ch).holdLimit
      ∧ (∀ j, j ≠ ch → (s.enforceHold ch t k).chan j = s.chan j)
      ∧ ∀ n, (s.enforceHold ch t k).slot n = s.slot n := by
  induction k generalizing s with
  | zero =>
    have h0 : (s.chan ch).candidates.filter s.swallowing = [] := List.length_eq_zero_iff.mp (by omega)
    refine ⟨⟨_, rfl, .refl _, rfl⟩, ?_, fun _ _ => rfl, fun _ => rfl⟩
    show (heldEntries s ch).length ≤ _
    rw [heldEntries_eq_nil h0]
    exact Nat.zero_le _
  | succ k ih =>
    unfold State.enforceHold
    by_cases h : (s.chan ch).holdLimit < s.heldCount ch
    · rw [if_pos h]
      obtain ⟨e1, e2, e3⟩ := @cancelOldestSwallowing_chan s ch t
      have hsw := swallowing_congr e3
      have hle : (((s.cancelOldestSwallowing ch t).chan ch).candidates.filter
          (s.cancelOldestSwallowing ch t).swallowing).length ≤ k := by
        rw [hsw, e1]
        show (((s.chan ch).candidates.eraseP s.swallowing).filter s.swallowing).length ≤ k
        rw [filter_eraseP_length]
        omega
      obtain ⟨⟨cs, f1, f2, f3⟩, f4, f5, f6⟩ := ih (s.cancelOldestSwallowing ch t) hle
      rw [hsw] at f3
      rw [e1] at f1 f2 f3 f4
      refine ⟨⟨cs, f1, f2.trans List.eraseP_sublist, f3.trans (filter_eraseP_neg _ _)⟩, f4, fun j hj => ?_, fun n => ?_⟩
      · rw [f5 j hj, e2 j hj]
      · rw [f6 n, e3 n]
    · rw [if_neg h]
      refine ⟨⟨_, rfl, .refl _, rfl⟩, ?_, fun _ _ => rfl, fun _ => rfl⟩
      rw [← heldCount_eq]
      exact Nat.not_lt.mp h

/-- R91: what a set of candidates holds of a queue, its swallowing ones hold. -/
theorem heldUnder_filter (s : State) (queue : List Symbol) (cs : List Candidate) :
    heldUnder s queue (cs.filter s.swallowing) = heldUnder s queue cs := by
  unfold heldUnder
  congr 1
  funext x
  rw [List.any_filter]
  congr 1
  funext c
  cases s.swallowing c <;> simp

theorem heldUnder_congr {s t : State} (h : t.swallowing = s.swallowing) (queue : List Symbol) (cs : List Candidate) :
    heldUnder t queue cs = heldUnder s queue cs := by
  unfold heldUnder
  rw [h]

theorem filter_of_find? {α : Type} {p : α → Bool} {l : List α} {c : α} (h : l.find? p = some c) :
    l.filter p = c :: (l.eraseP p).filter p := by
  induction l with
  | nil => cases h
  | cons a l ih =>
    by_cases ha : p a
    · rw [List.find?_cons_of_pos ha, Option.some.injEq] at h
      rw [List.filter_cons_of_pos ha, List.eraseP_cons_of_pos ha, h]
    · rw [List.find?_cons_of_neg ha] at h
      rw [List.filter_cons_of_neg ha, List.eraseP_cons_of_neg ha, List.filter_cons_of_neg ha, ih h]

/-- Within the limit nothing is cancelled. -/
theorem holdEnforced_within {s : State} {ch : Channel} (t : Time) (h : s.heldCount ch ≤ (s.chan ch).holdLimit) :
    HoldEnforced s (s.chan ch).queue (s.chan ch).holdLimit (s.chan ch).candidates [] (s.chan ch).candidates
      ∧ s = (s.modChan ch fun c => { c with candidates := (s.chan ch).candidates }).offerHoldCancels ch [] t := by
  rw [heldCount_eq] at h
  have self : (s.modChan ch fun c => { c with candidates := (s.chan ch).candidates }) = s := modChan_eq_self s rfl
  exact ⟨⟨.refl _, rfl, rfl, h, fun _ _ he hp => absurd (List.append_eq_nil_iff.mp he.symm).2 hp⟩, self.symm⟩

/-- R105: an enforcement that may cancel every swallowing candidate takes the oldest ones, as few as suffice, and offers
HOLD_CANCEL for each; nothing else changes. -/
theorem enforceHold_enforces (s : State) (ch : Channel) (t : Time) (k : Nat)
    (hk : ((s.chan ch).candidates.filter s.swallowing).length ≤ k) :
    ∃ gone cs, HoldEnforced s (s.chan ch).queue (s.chan ch).holdLimit (s.chan ch).candidates gone cs
      ∧ s.enforceHold ch t k = (s.modChan ch fun c => { c with candidates := cs }).offerHoldCancels ch gone t := by
  induction k generalizing s with
  | zero =>
    have h0 : (s.chan ch).candidates.filter s.swallowing = [] := List.length_eq_zero_iff.mp (by omega)
    refine ⟨_, _, holdEnforced_within t ?_⟩
    rw [heldCount_eq, heldEntries_eq_nil h0]
    exact Nat.zero_le _
  | succ k ih =>
    unfold State.enforceHold
    by_cases h : (s.chan ch).holdLimit < s.heldCount ch
    · rw [if_pos h]
      obtain ⟨e1, _, e3⟩ := @cancelOldestSwallowing_chan s ch t
      have hsw := swallowing_congr e3
      cases hf : (s.chan ch).candidates.find? s.swallowing with
      | none =>
        rw [heldCount_eq, heldEntries_eq_nil (by simpa [List.filter_eq_nil_iff] using hf)] at h
        simp at h
      | some c =>
        have hc : s.swallowing c = true := List.find?_some hf
        have hlen := filter_eraseP_length s.swallowing (s.chan ch).candidates
        obtain ⟨gone, cs, ⟨g1, g2, g3, g4, g5⟩, g6⟩ := ih (s.cancelOldestSwallowing ch t)
          (by rw [hsw, e1]; show (((s.chan ch).candidates.eraseP s.swallowing).filter s.swallowing).length ≤ k; omega)
        rw [hsw, e1] at g2 g3
        rw [e1] at g1 g4 g5
        rw [heldUnder_congr hsw] at g4
        simp only [heldUnder_congr hsw] at g5
        have g1 : cs.Sublist ((s.chan ch).candidates.eraseP s.swallowing) := g1
        have first : (s.chan ch).candidates.filter s.swallowing = c :: (gone ++ cs.filter s.swallowing) := by
          rw [← g3]
          exact filter_of_find? hf
        refine ⟨c :: gone, cs, ⟨g1.trans List.eraseP_sublist, g2.trans (filter_eraseP_neg _ _), first, g4, ?_⟩, ?_⟩
        · intro pre post he hp
          cases pre with
          | cons a pre =>
            rw [List.cons_append, List.cons.injEq] at he
            exact g5 pre post he.2 hp
          | nil =>
            rw [List.nil_append] at he
            subst he
            have all : (c :: gone).filter s.swallowing = c :: gone := by
              rw [List.filter_eq_self]
              intro a ha
              have : a ∈ (s.chan ch).candidates.filter s.swallowing := by
                rw [first]
                rcases List.mem_cons.mp ha with rfl | ha
                · exact List.mem_cons_self
                · exact List.mem_cons_of_mem _ (List.mem_append_left _ ha)
              exact (List.mem_filter.mp this).2
            rw [← heldUnder_filter, List.filter_append, all, List.cons_append, ← first, heldUnder_filter]
            rw [heldCount_eq] at h
            exact h
        · rw [g6]
          unfold State.cancelOldestSwallowing
          rw [hf]
          dsimp only
          rw [← offer_modChan, modChan_modChan]
          rfl
    · rw [if_neg h]
      exact ⟨_, _, holdEnforced_within t (Nat.not_lt.mp h)⟩

end Sys2Proof.Machine
end

