-- ==== Sys2Proof/Laws/Memory.lean ====
section
/-! SUPPORT. The pattern memory (chapter 2, section 9.1): what a run written into the pool leaves, which addresses are
allocated, and what the first-fit search and the search for a run out of place find. -/

namespace Sys2Proof.Machine

/-! ## The pool -/

/-- R39: a run written from `a` up holds its elements in order, and every other element stays. -/
theorem writeElements_get (es : List Element) (pool : Vector Element 512) (a : Nat) (b : Fin 512) :
    (writeElements pool a es)[b] =
      if h : a ≤ b.val ∧ b.val < a + es.length then es[b.val - a]'(by omega) else pool[b] := by
  induction es generalizing pool a with
  | nil =>
    rw [dif_neg (by simp only [List.length_nil]; omega)]
    rfl
  | cons e es ih =>
    show (writeElements (pool.setIfInBounds a e) (a + 1) es)[b] = _
    rw [ih]
    by_cases h : a + 1 ≤ b.val ∧ b.val < a + 1 + es.length
    · rw [dif_pos h, dif_pos (by simp only [List.length_cons]; omega)]
      have : b.val - a = b.val - (a + 1) + 1 := by omega
      simp only [this, List.getElem_cons_succ]
    · rw [dif_neg h]
      by_cases hb : b.val = a
      · have hi : a < 512 := hb ▸ b.isLt
        rw [dif_pos (by simp only [List.length_cons]; omega)]
        simp [hb]
      · rw [dif_neg (by simp only [List.length_cons]; omega)]
        simp only [Fin.getElem_fin]
        rw [Vector.getElem_setIfInBounds]
        rw [if_neg (Ne.symm hb)]

/-! ## Allocation -/

theorem covers_iff (sl : Slot) (a : Nat) :
    sl.covers a = true ↔ ∃ r, sl.record? = some r ∧ r.start ≤ a ∧ a < r.start + r.pattern.length := by
  unfold Slot.covers
  cases sl.record? <;> simp [Stored.covers]

theorem allocated_iff (s : State) (a : Nat) :
    s.allocated a = true ↔
      ∃ n r, (s.slot n).record? = some r ∧ r.start ≤ a ∧ a < r.start + r.pattern.length := by
  unfold State.allocated
  simp only [List.any_eq_true, covers_iff]
  exact ⟨fun ⟨n, _, h⟩ => ⟨n, h⟩, fun ⟨n, h⟩ => ⟨n, List.mem_finRange n, h⟩⟩

theorem allocatedBut_iff (s : State) (n : PatternNum) (a : Nat) :
    s.allocatedBut n a = true ↔
      ∃ m, m ≠ n ∧ ∃ r, (s.slot m).record? = some r ∧ r.start ≤ a ∧ a < r.start + r.pattern.length := by
  unfold State.allocatedBut
  simp only [List.any_eq_true, Bool.and_eq_true, bne_iff_ne, covers_iff]
  exact ⟨fun ⟨m, _, h⟩ => ⟨m, h⟩, fun ⟨m, h⟩ => ⟨m, List.mem_finRange m, h⟩⟩

/-! ## Searches -/

/-- A search of a range that starts at 0 finds the least number that satisfies the test. -/
theorem find?_range_least {p : Nat → Bool} {k a : Nat} (ha : a < k) (hp : p a = true)
    (hl : ∀ b < a, p b = false) : (List.range k).find? p = some a := by
  rw [List.find?_range_eq_some]
  exact ⟨hp, by simpa using ha, fun b hb => by simpa using hl b hb⟩

/-- R40: the first-fit start is the lowest gap that holds the run. -/
theorem firstFit_eq {s : State} {n : PatternNum} {len a : Nat} (ha : a < 512)
    (hfit : a + len ≤ 512 ∧ ∀ k < len, s.allocatedBut n (a + k) = false)
    (hl : ∀ b < a, ¬(b + len ≤ 512 ∧ ∀ k < len, s.allocatedBut n (b + k) = false)) :
    s.firstFit n len = some a := by
  have key : ∀ b, (decide (b + len ≤ Config.poolSize) && (List.range len).all fun k => !s.allocatedBut n (b + k)) = true
      ↔ b + len ≤ 512 ∧ ∀ k < len, s.allocatedBut n (b + k) = false := by
    intro b
    simp [Config.poolSize]
  refine find?_range_least ha ((key a).mpr hfit) fun b hb => ?_
  rw [← Bool.not_eq_true, key]
  exact hl b hb

/-- R164: the first free address, when there is one. -/
theorem firstFree_eq {s : State} {f : Nat} (hf : f < 512) (h : s.allocated f = false)
    (hl : ∀ b < f, s.allocated b = true) : s.firstFree = f := by
  unfold State.firstFree
  rw [find?_range_least hf (by simp [h]) (fun b hb => by simp [hl b hb])]
  rfl

/-- Every address below the first free one is allocated (R164). -/
theorem allocated_of_lt_firstFree {s : State} {b : Nat} (h : b < s.firstFree) (hb : b < 512) :
    s.allocated b = true := by
  unfold State.firstFree at h
  cases hf : (List.range Config.poolSize).find? fun a => !s.allocated a with
  | none =>
    rw [List.find?_eq_none] at hf
    simpa using hf b (by simpa [Config.poolSize] using hb)
  | some a =>
    rw [hf] at h
    rw [List.find?_range_eq_some] at hf
    simpa using hf.2.2 b h

/-- The first free address, while it is in the pool, is not allocated. -/
theorem allocated_firstFree {s : State} (h : s.firstFree < 512) : s.allocated s.firstFree = false := by
  have hx : s.firstFree = ((List.range Config.poolSize).find? fun a => !s.allocated a).getD Config.poolSize := rfl
  cases hf : (List.range Config.poolSize).find? fun a => !s.allocated a with
  | none => rw [hf] at hx; simp [Config.poolSize] at hx; omega
  | some a =>
    rw [hf] at hx
    have hx : s.firstFree = a := hx
    rw [hx]
    simpa using List.find?_some hf

theorem displacedStart?_eq_some {s : State} {n : PatternNum} {a : Nat} :
    s.displacedStart? n = some a ↔ ∃ r, (s.slot n).record? = some r ∧ s.firstFree < r.start ∧ r.start = a := by
  unfold State.displacedStart?
  cases (s.slot n).record? <;> simp

/-- R167: a run is found out of place exactly when some run starts above the first free address. -/
theorem nextMove?_isSome {s : State} :
    s.nextMove?.isSome = true ↔ ∃ n r, (s.slot n).record? = some r ∧ s.firstFree < r.start := by
  have key : ∀ l : List PatternNum, (s.lowestDisplaced l).isSome = true ↔
      ∃ n ∈ l, ∃ a, s.displacedStart? n = some a := by
    intro l
    induction l with
    | nil => simp [State.lowestDisplaced]
    | cons n l ih =>
      unfold State.lowestDisplaced
      cases h1 : s.displacedStart? n with
      | none =>
        cases h2 : s.lowestDisplaced l with
        | none => simpa [h2, h1] using ih
        | some b => simpa [h2, h1] using ih
      | some a =>
        cases h2 : s.lowestDisplaced l with
        | none => simp [h1]
        | some b => by_cases h : a ≤ b.2 <;> simp [h, h1]
  unfold State.nextMove?
  rw [Option.isSome_map, key]
  constructor
  · rintro ⟨n, _, a, h⟩
    obtain ⟨r, h1, h2, _⟩ := displacedStart?_eq_some.mp h
    exact ⟨n, r, h1, h2⟩
  · rintro ⟨n, r, h1, h2⟩
    exact ⟨n, List.mem_finRange n, r.start, displacedStart?_eq_some.mpr ⟨r, h1, h2, rfl⟩⟩

/-- R167: the run that a move takes is the one out of place with the lowest start. -/
theorem nextMove?_eq {s : State} {n : PatternNum} {r : Stored} (hr : (s.slot n).record? = some r)
    (hd : s.firstFree < r.start)
    (hl : ∀ m q, m ≠ n → (s.slot m).record? = some q → s.firstFree < q.start → r.start < q.start) :
    s.nextMove? = some n := by
  have hn : s.displacedStart? n = some r.start := displacedStart?_eq_some.mpr ⟨r, hr, hd, rfl⟩
  have hm : ∀ m a, m ≠ n → s.displacedStart? m = some a → r.start < a := by
    intro m a hmn h
    obtain ⟨q, h1, h2, rfl⟩ := displacedStart?_eq_some.mp h
    exact hl m q hmn h1 h2
  have low : ∀ l : List PatternNum, ∀ m a, s.lowestDisplaced l = some (m, a) →
      m ∈ l ∧ s.displacedStart? m = some a := by
    intro l
    induction l with
    | nil => simp [State.lowestDisplaced]
    | cons k l ih =>
      intro m a h
      unfold State.lowestDisplaced at h
      cases h1 : s.displacedStart? k with
      | none =>
        cases h2 : s.lowestDisplaced l with
        | none => simp [h1, h2] at h
        | some b =>
          simp only [h1, h2, Option.some.injEq] at h
          obtain ⟨h3, h4⟩ := ih m a (by rw [h2, h])
          exact ⟨List.mem_cons_of_mem _ h3, h4⟩
      | some c =>
        cases h2 : s.lowestDisplaced l with
        | none =>
          simp only [h1, h2, Option.some.injEq, Prod.mk.injEq] at h
          obtain ⟨rfl, rfl⟩ := h
          exact ⟨List.mem_cons_self, h1⟩
        | some b =>
          by_cases hc : c ≤ b.2
          · simp only [h1, h2, hc, if_true, Option.some.injEq, Prod.mk.injEq] at h
            obtain ⟨rfl, rfl⟩ := h
            exact ⟨List.mem_cons_self, h1⟩
          · simp only [h1, h2, hc, if_false, Option.some.injEq] at h
            obtain ⟨h3, h4⟩ := ih m a (by rw [h2, ← h])
            exact ⟨List.mem_cons_of_mem _ h3, h4⟩
  have found : ∀ l : List PatternNum, n ∈ l → s.lowestDisplaced l = some (n, r.start) := by
    intro l
    induction l with
    | nil => simp
    | cons k l ih =>
      intro hk
      unfold State.lowestDisplaced
      by_cases hkn : k = n
      · subst hkn
        rw [hn]
        cases h2 : s.lowestDisplaced l with
        | none => rfl
        | some b =>
          obtain ⟨m, c⟩ := b
          have hc : r.start ≤ c := by
            by_cases hmk : m = k
            · subst hmk
              have := (low l m c h2).2
              rw [hn] at this
              exact le_of_eq (Option.some.inj this)
            · exact le_of_lt (hm m c hmk (low l m c h2).2)
          simp [hc]
      · have hnl : n ∈ l := (List.mem_cons.mp hk).resolve_left (Ne.symm hkn)
        rw [ih hnl]
        cases h1 : s.displacedStart? k with
        | none => rfl
        | some c =>
          have : ¬ c ≤ r.start := Nat.not_le.mpr (hm k c hkn h1)
          simp [this]
  unfold State.nextMove?
  rw [found allPatterns (List.mem_finRange n)]
  rfl

end Sys2Proof.Machine
end

