-- ==== Sys2Proof/Laws/Pass.lean ====
section
/-! SUPPORT. The match pass (chapter 3): the channel it serves, and its state after phase 1. -/

namespace Sys2Proof.Machine

/-- R36, bit by bit. -/
theorem codesAgree_iff (e : Element) (c : Byte) :
    codesAgree e c = true ↔ ∀ i : Nat, i < 8 → 8 ≤ i + e.width.val → e.code.getLsbD i = c.getLsbD i := by
  unfold codesAgree
  obtain ⟨w, hw⟩ := e.width
  simp only [decide_eq_true_eq]
  constructor
  · intro h i hi h8
    simp only [BitVec.getLsbD, Nat.testBit_eq_decide_div_mod_eq]
    have e1 : ∀ n : Nat, n / 2 ^ i = n / 2 ^ (8 - w) / 2 ^ (i - (8 - w)) := by
      intro n; rw [Nat.div_div_eq_div_mul, ← Nat.pow_add]; congr 2; omega
    rw [e1 e.code.toNat, e1 c.toNat, h]
  · intro h
    apply Nat.eq_of_testBit_eq
    intro j
    rw [Nat.testBit_div_two_pow, Nat.testBit_div_two_pow]
    by_cases hj : j + (8 - w) < 8
    · exact h _ (by omega) (by omega)
    · rw [Nat.testBit_lt_two_pow, Nat.testBit_lt_two_pow]
      · exact lt_of_lt_of_le c.isLt (Nat.pow_le_pow_right (by omega) (by omega))
      · exact lt_of_lt_of_le e.code.isLt (Nat.pow_le_pow_right (by omega) (by omega))

theorem passServes_next {s : State} {ch : Channel} {x : Symbol} (h : PassServes s ch x) : s.nextReady? = some ch := by
  obtain ⟨h1, h2, h3, k, hk, hj⟩ := h
  unfold State.nextReady?
  have hr : s.isReady ch = true := by simp [State.isReady, h2, h3]
  have hn : ∀ c, ¬ReadyChannel s c → s.isReady c = false := by
    intro c hc
    cases hm : (s.chan c).mode <;> cases hq : (s.chan c).ready <;> simp [State.isReady, ReadyChannel, hm, hq] at hc ⊢
  fin_cases k
  · simp at hk; subst hk; simp [List.find?, hr]
  · have h0 := hn _ (hj 0 (by decide))
    simp at hk h0; subst hk
    have e2 : s.lastServed + 1 + 1 = s.lastServed + 2 := by rw [add_assoc]; rfl
    rw [e2] at hr ⊢
    simp [List.find?, hr, h0]
  · have h0 := hn _ (hj 0 (by decide))
    have h1 := hn _ (hj 1 (by decide))
    simp at hk h0; subst hk
    have e2 : s.lastServed + 1 + 1 = s.lastServed + 2 := by rw [add_assoc]; rfl
    have e3 : s.lastServed + 1 + 2 = s.lastServed + 3 := by rw [add_assoc]; rfl
    rw [e2] at h1
    rw [e3] at hr ⊢
    simp [List.find?, hr, h0, h1]
  · have h0 := hn _ (hj 0 (by decide))
    have h1 := hn _ (hj 1 (by decide))
    have h2' := hn _ (hj 2 (by decide))
    simp at hk h0; subst hk
    have e2 : s.lastServed + 1 + 1 = s.lastServed + 2 := by rw [add_assoc]; rfl
    have e3 : s.lastServed + 1 + 2 = s.lastServed + 3 := by rw [add_assoc]; rfl
    have e4 : s.lastServed + 1 + 3 = s.lastServed := by rw [add_assoc]; exact add_zero _
    rw [e2] at h1
    rw [e3] at h2'
    rw [e4] at hr ⊢
    simp [List.find?, hr, h0, h1, h2']

/-- A pass runs its phases on the channel that R48 chooses. -/
theorem matchPass_eq {s : State} {ch : Channel} {x : Symbol} (h : PassServes s ch x) :
    exec .matchPass s = .next ((s.beginPass ch).runPass ch x) := by
  have := passServes_next h
  obtain ⟨h1, h2, h3, _⟩ := h
  simp [exec, execMatchPass, State.matchPass, h1, this, h3]

/-- A channel after phase 1 of a pass, its symbol taken (R49, R51). -/
def Chan.afterExpiry (c : Chan) (stamp : Time) : Chan :=
  { c with
    ready := none
    candidates := c.candidates.filter fun k => !earlierThan k.deadline stamp
    lockouts := c.lockouts.filter fun r => !decide (r.expiry < stamp)
    tail := c.tail.filter fun t => !earlierThan t.expiry stamp }

/-- The channel has become the one served last, and the match unit holds its grant (R48, R172). -/
def State.asServed (u : State) (ch : Channel) : State :=
  { u with lastServed := ch, grant := .held .matchUnit, lastGrant := .matchUnit }

theorem asServed_modChan (u : State) (k ch : Channel) (f : Chan → Chan) :
    (u.asServed k).modChan ch f = (u.modChan ch f).asServed k := rfl

theorem asServed_chan (u : State) (k ch : Channel) : (u.asServed k).chan ch = u.chan ch := rfl

/-- The state in which a pass runs phases 2 to 7. -/
def State.passStart (s : State) (ch : Channel) (stamp : Time) : State :=
  (s.modChan ch fun c => Chan.afterExpiry c stamp).asServed ch

theorem matchPass_run {s : State} {ch : Channel} {x : Symbol} (h : PassServes s ch x) :
    exec .matchPass s = .next
      (if x.kind = .error then ((s.passStart ch x.stamp).keepCandidates ch fun _ => false).deliver ch x
      else (s.passStart ch x.stamp).passPhases ch x) := by
  rw [matchPass_eq h]
  congr 1
  have : (s.beginPass ch).passExpiry ch x.stamp = s.passStart ch x.stamp := by
    have e : (s.beginPass ch).passExpiry ch x.stamp =
        State.asServed ((s.modChan ch fun c => { c with ready := none }).passExpiry ch x.stamp) ch := rfl
    rw [e]
    unfold State.passExpiry
    rw [modChan_modChan]; rfl
  unfold State.runPass
  rw [this]

theorem passStart_chan (s : State) (ch : Channel) (t : Time) : (s.passStart ch t).chan ch = (s.chan ch).afterExpiry t :=
  chan_modChan_same s ch fun c => Chan.afterExpiry c t

theorem passCandidates_quiet {s : State} {ch : Channel} {x : Symbol}
    (h : ∀ c ∈ (s.chan ch).candidates, s.fate x c ≠ .locks) :
    s.passCandidates ch x = s.modChan ch fun c =>
      { c with candidates := c.candidates.filterMap (s.survivor? ch x) } := by
  have : allPatterns.filter (s.startsLockout ch x) = [] := by
    rw [List.filter_eq_nil_iff]
    intro n _
    simp only [State.startsLockout, List.any_eq_true, not_exists, not_and]
    intro c hc hx
    simp at hx
    exact h c hc hx.2
  unfold State.passCandidates
  rw [this]
  simp [forEach, State.modChan]

theorem spawnAll_none {s : State} {ch : Channel} {x : Symbol} (h : ∀ n, s.eligible? ch x n = none) :
    s.spawnAll ch x = ⟨(s.chan ch).candidates, [], none⟩ := by
  unfold State.spawnAll
  have : ∀ l : List PatternNum, ∀ w, l.foldl (s.spawnOne ch x) w = w := by
    intro l w
    induction l with
    | nil => rfl
    | cons n l ih => rw [List.foldl_cons]; unfold State.spawnOne; rw [h]; exact ih
  exact this _ _

theorem eligible?_unarmed {s : State} {ch : Channel} {x : Symbol} {n : PatternNum} (h : (s.slot n).armed? = none) :
    s.eligible? ch x n = none := by
  unfold State.eligible?; rw [h]

theorem passSpawning_none {s : State} {ch : Channel} {x : Symbol} {w : Spawning} (h : w.refused = none) :
    s.passSpawning ch x w = s.modChan ch fun c => { c with candidates := w.candidates } := by
  unfold State.passSpawning; rw [h]

theorem passCompletions_nil (s : State) (ch : Channel) (x : Symbol) : s.passCompletions ch x [] = s := rfl

theorem inPatternOrder_nil : inPatternOrder [] = [] := by
  simp only [inPatternOrder, List.filter_nil]
  induction allPatterns with
  | nil => rfl
  | cons _ _ ih => exact ih

theorem disposition_nil (s : State) (ch : Channel) :
    s.disposition ch [] = if (s.boundary ch).isSome then .held else .free := rfl

theorem handOn_stored {s : State} {ch : Channel} {x : Symbol} {b : Bool} :
    s.handOn ch x (if b then .held else .free) = s.deliver ch x := by cases b <;> rfl

/-- A pass on a channel with no candidates on which nothing spawns delivers its symbol. -/
theorem passPhases_quiet {s : State} {ch : Channel} {x : Symbol} (hc : (s.chan ch).candidates = [])
    (h : ∀ n, s.eligible? ch x n = none) : s.passPhases ch x = s.deliver ch x := by
  have e1 : s.passCandidates ch x = s := by
    rw [passCandidates_quiet (by simp [hc])]
    exact modChan_eq_self s (by simp only [hc, List.filterMap_nil]; rw [← hc])
  unfold State.passPhases
  dsimp only
  rw [e1, spawnAll_none h, passSpawning_none rfl]
  have e2 : (s.modChan ch fun c => { c with candidates := (s.chan ch).candidates }) = s := modChan_eq_self s rfl
  dsimp only
  rw [e2]
  have e3 : s.advanceCompletions ch x = [] := by simp [State.advanceCompletions, hc]
  rw [e3, List.append_nil, inPatternOrder_nil, passCompletions_nil, disposition_nil, handOn_stored]

/-- A symbol stored on a channel with room and without candidates. -/
theorem storeSymbol_room {s : State} {ch : Channel} {x : Symbol} (hr : (s.chan ch).queue.length < 32)
    (hc : (s.chan ch).candidates = []) :
    s.storeSymbol ch x = s.modChan ch fun c => { c with queue := c.queue ++ [x] } := by
  simp [State.storeSymbol, hr, State.appendSymbol, hc, State.enforceHold]

/-- R95: a symbol that meets a full queue is lost. -/
theorem storeSymbol_full {s : State} {ch : Channel} {x : Symbol} (hr : 32 ≤ (s.chan ch).queue.length) :
    s.storeSymbol ch x = s.loseSymbol ch x := by
  simp [State.storeSymbol, Config.queueDepth, Nat.not_lt.mpr hr]

theorem modChan_congr {s : State} {ch : Channel} {f g : Chan → Chan} (h : f (s.chan ch) = g (s.chan ch)) :
    s.modChan ch f = s.modChan ch g := congrArg (s.setChan ch) h

theorem foldl_lone {α β : Type} (f : β → α → β) (l : List α) (n : α) (w : β) (hnd : l.Nodup) (hn : n ∈ l)
    (h : ∀ m w, m ≠ n → f w m = w) : l.foldl f w = f w n := by
  have skip : ∀ (l : List α) (w : β), n ∉ l → l.foldl f w = w := by
    intro l
    induction l with
    | nil => intro w _; rfl
    | cons a l ih =>
      intro w hm
      rw [List.mem_cons, not_or] at hm
      rw [List.foldl_cons, h a w (Ne.symm hm.1)]
      exact ih w hm.2
  induction l generalizing w with
  | nil => simp at hn
  | cons a l ih =>
    rw [List.nodup_cons] at hnd
    rw [List.foldl_cons]
    by_cases ha : a = n
    · subst ha; exact skip l _ hnd.1
    · rw [h a w ha]
      exact ih w hnd.2 ((List.mem_cons.mp hn).resolve_left (Ne.symm ha))

theorem allPatterns_nodup : allPatterns.Nodup := List.nodup_finRange 64

theorem mem_allPatterns (n : PatternNum) : n ∈ allPatterns := List.mem_finRange n

theorem spawnAll_lone {s : State} {ch : Channel} {x : Symbol} {n : PatternNum}
    (h : ∀ m, m ≠ n → s.eligible? ch x m = none) :
    s.spawnAll ch x = s.spawnOne ch x ⟨(s.chan ch).candidates, [], none⟩ n := by
  refine foldl_lone _ _ n _ allPatterns_nodup (mem_allPatterns n) fun m w hm => ?_
  unfold State.spawnOne; rw [h m hm]

theorem filter_lone {α : Type} (p : α → Bool) (l : List α) (n : α) (hnd : l.Nodup) (hn : n ∈ l)
    (h : ∀ m, m ≠ n → p m = false) (hp : p n = true) : l.filter p = [n] := by
  have skip : ∀ (l : List α), n ∉ l → l.filter p = [] := by
    intro l hm
    rw [List.filter_eq_nil_iff]
    intro a ha
    rw [h a (fun e => hm (e ▸ ha))]; simp
  induction l with
  | nil => simp at hn
  | cons a l ih =>
    rw [List.nodup_cons] at hnd
    by_cases ha : a = n
    · subst ha; rw [List.filter_cons_of_pos hp, skip l hnd.1]
    · rw [List.filter_cons_of_neg (by rw [h a ha]; simp)]
      exact ih hnd.2 ((List.mem_cons.mp hn).resolve_left (Ne.symm ha))

theorem inPatternOrder_lone (d : Completion) : inPatternOrder [d] = [d] := by
  unfold inPatternOrder
  have : ∀ l : List PatternNum, (l.flatMap fun n => [d].filter fun d => d.pattern == n)
      = (l.filter fun n => d.pattern == n).map fun _ => d := by
    intro l
    induction l with
    | nil => rfl
    | cons a l ih =>
      rw [List.flatMap_cons, ih]
      by_cases h : d.pattern == a <;> simp [List.filter, h]
  rw [this, filter_lone _ _ d.pattern allPatterns_nodup (mem_allPatterns _) (by intro m hm; simpa using Ne.symm hm)
      (by simp)]
  rfl

theorem passStart_slot (s : State) (ch : Channel) (t : Time) (n : PatternNum) :
    (s.passStart ch t).slot n = s.slot n := rfl

theorem passStart_elementAt (s : State) (ch : Channel) (t : Time) (a : Nat) :
    (s.passStart ch t).elementAt a = s.elementAt a := rfl

theorem enforceHold_within {s : State} {ch : Channel} {t : Time} (h : s.heldCount ch ≤ (s.chan ch).holdLimit)
    (k : Nat) : s.enforceHold ch t k = s := by
  cases k with
  | zero => rfl
  | succ k => unfold State.enforceHold; rw [if_neg (Nat.not_lt.mpr h)]

theorem swallows_eq {s : State} {n : PatternNum} {r : Stored} (h : (s.slot n).record? = some r) :
    s.swallows n = r.pattern.swallow := by
  unfold State.swallows; rw [h]

/-- R51: phase 1 where nothing has expired. -/
theorem passStart_chan_stays {s : State} {ch : Channel} {t : Time}
    (hd : ∀ b ∈ (s.chan ch).candidates, ∀ d ∈ b.deadline, t ≤ d) (hls : (s.chan ch).lockouts = [])
    (ht : (s.chan ch).tail = none) : (s.passStart ch t).chan ch = { s.chan ch with ready := none } := by
  have : (s.chan ch).candidates.filter (fun k => !earlierThan k.deadline t) = (s.chan ch).candidates := by
    rw [List.filter_eq_self]
    intro b hb
    cases hx : b.deadline with
    | none => rfl
    | some d => simpa [earlierThan, hx] using hd b hb d hx
  rw [passStart_chan]
  simp [Chan.afterExpiry, this, hls, ht]

theorem passStart_chan_lone {s : State} {ch : Channel} {x : Symbol} {b : Candidate} (hcs : (s.chan ch).candidates = [b])
    (hd : ∀ d ∈ b.deadline, x.stamp ≤ d) (hls : (s.chan ch).lockouts = []) (ht : (s.chan ch).tail = none) :
    (s.passStart ch x.stamp).chan ch = { s.chan ch with ready := none } :=
  passStart_chan_stays (by rw [hcs]; simpa using hd) hls ht

/-- Phases 4 to 7 when phase 3 locked nothing out and completed nothing, and nothing spawns: the symbol is delivered
among the survivors. -/
theorem passPhases_survive {s : State} {ch : Channel} {x : Symbol}
    (hl : ∀ c ∈ (s.chan ch).candidates, s.fate x c ≠ .locks ∧ s.fate x c ≠ .completes)
    (h : ∀ n, s.eligible? ch x n = none) :
    s.passPhases ch x = State.deliver
      (s.modChan ch fun c => { c with candidates := c.candidates.filterMap (s.survivor? ch x) }) ch x := by
  unfold State.passPhases
  dsimp only
  rw [passCandidates_quiet fun c hc => (hl c hc).1]
  have hel : ∀ n, State.eligible?
      (s.modChan ch fun c => { c with candidates := c.candidates.filterMap (s.survivor? ch x) }) ch x n = none := by
    intro n
    rw [← h n]
    unfold State.eligible?
    rw [chan_modChan_same]
    rfl
  rw [spawnAll_none hel, passSpawning_none rfl]
  have e3 : s.advanceCompletions ch x = [] := by
    simp only [State.advanceCompletions, List.map_eq_nil_iff, List.filter_eq_nil_iff]
    intro c hc
    simp [(hl c hc).2]
  dsimp only
  rw [e3, List.append_nil, inPatternOrder_nil, passCompletions_nil, disposition_nil, handOn_stored]
  rw [modChan_eq_self _ (by rw [chan_modChan_same])]

theorem deliver_free {s : State} {ch : Channel} {x : Symbol} (hr : (s.chan ch).queue.length < 32)
    (ht : (s.chan ch).tail = none) (hc : ∀ c ∈ (s.chan ch).candidates, s.swallowing c = false) :
    s.deliver ch x = s.modChan ch fun c => { c with queue := c.queue ++ [x] } := by
  unfold State.deliver
  rw [ht]
  simp only [State.storeSymbol, Config.queueDepth, hr, if_true, State.appendSymbol]
  apply enforceHold_within
  rw [heldCount_eq]
  have : heldEntries (s.modChan ch fun c => { c with queue := c.queue ++ [x] }) ch = [] := by
    unfold heldEntries heldUnder
    rw [chan_modChan_same, List.filter_eq_nil_iff]
    intro e _
    simp only [List.any_eq_true, not_exists, not_and, Bool.and_eq_true, decide_eq_true_eq]
    intro c hcm hsw
    have : s.swallowing c = true := hsw
    rw [hc c hcm] at this
    simp at this
  rw [this]; simp

theorem eligible?_unmatched {s : State} {ch : Channel} {x : Symbol} {n : PatternNum} {r : Stored}
    (hs : s.slot n = .armed r) (he : elementMatches (s.elementAt r.start) x = false) : s.eligible? ch x n = none := by
  unfold State.eligible?
  rw [hs]
  simp [Slot.armed?, he]

theorem passCandidates_locks {s : State} {ch : Channel} {x : Symbol} {n : PatternNum} {b : Candidate}
    (hcs : (s.chan ch).candidates = [b]) (hb : b.pattern = n) (hf : s.fate x b = .locks) :
    s.passCandidates ch x = State.offer
      (s.modChan ch fun c => { c with candidates := [], lockouts := c.lockouts ++ [s.lockoutRecord x n] })
      ⟨.lockout, some ch, some n, none, x.stamp⟩ := by
  have hsl : ∀ m, s.startsLockout ch x m = (n == m) := by
    intro m
    unfold State.startsLockout
    rw [hcs]
    simp [hb, hf]
  have e : allPatterns.filter (s.startsLockout ch x) = [n] := by
    refine filter_lone _ _ n allPatterns_nodup (mem_allPatterns n) ?_ ?_
    · intro m hm; rw [hsl]; simpa using Ne.symm hm
    · rw [hsl]; simp
  unfold State.passCandidates
  dsimp only
  rw [e]
  have e2 : [b].filterMap (s.survivor? ch x) = [] := by
    simp [List.filterMap, State.survivor?, hsl, hb]
  rw [modChan_congr (g := fun c => { c with candidates := [], lockouts := c.lockouts ++ [s.lockoutRecord x n] })
      (by simp only [hcs, e2]; rfl)]
  rfl

theorem createEvent_room {s : State} {l : EventLevel} {o : Offer} (h : s.eventQueue.length < 32) :
    (s.createEvent l o).eventQueue = s.eventQueue ++ [o.record s.eventSeq l]
      ∧ (s.createEvent l o).eventSeq = s.eventSeq + 1 ∧ (s.createEvent l o).lostMask = s.lostMask := by
  unfold State.createEvent State.enqueueEvent
  simp only [Config.eventDepth, h, if_true]
  exact ⟨rfl, rfl, rfl⟩

/-- What the phases of a pass on `ch` leave of the channel beyond its context, its queue and its lost latch, of the pulse
widths, of the other channels and of the slots (R25, R69): candidates and lockout records of a ONE_SHOT pattern that
completes go everywhere, and its slot is disarmed. -/
structure PassFrame (ch : Channel) (s t : State) : Prop where
  own : ∃ cs ls tail queue lost, t.chan ch =
    { s.chan ch with candidates := cs, lockouts := ls, tail := tail, queue := queue, lost := lost }
  width : ∀ o, (t.output o).width = (s.output o).width
  others : ∀ j, j ≠ ch → ∃ cs ls, t.chan j = { s.chan j with candidates := cs, lockouts := ls }
    ∧ cs.Sublist (s.chan j).candidates ∧ ls.Sublist (s.chan j).lockouts
  slots : ∀ n, t.slot n = s.slot n ∨ ∃ r, s.slot n = .armed r ∧ r.pattern.oneShot = true ∧ t.slot n = .disarmed r

theorem PassFrame.refl (ch : Channel) (s : State) : PassFrame ch s s where
  own := ⟨_, _, _, _, _, rfl⟩
  width _ := rfl
  others _ _ := ⟨_, _, rfl, .refl _, .refl _⟩
  slots _ := .inl rfl

theorem PassFrame.trans {ch : Channel} {s t u : State} (h : PassFrame ch s t) (k : PassFrame ch t u) :
    PassFrame ch s u where
  own := by
    obtain ⟨_, _, _, _, _, h1⟩ := h.own
    obtain ⟨cs, ls, tail, queue, lost, h2⟩ := k.own
    rw [h1] at h2
    exact ⟨cs, ls, tail, queue, lost, h2⟩
  width o := (k.width o).trans (h.width o)
  others j hj := by
    obtain ⟨cs, ls, e, h1, h2⟩ := h.others j hj
    obtain ⟨cs', ls', e', h1', h2'⟩ := k.others j hj
    rw [e] at e' h1' h2'
    exact ⟨cs', ls', e', h1'.trans h1, h2'.trans h2⟩
  slots n := by
    rcases k.slots n with e | ⟨r, e, ho, e'⟩
    · rw [e]; exact h.slots n
    · rcases h.slots n with e2 | ⟨r', _, _, e2⟩
      · exact .inr ⟨r, e2 ▸ e, ho, e'⟩
      · rw [e2] at e; cases e

/-- An update that leaves the channels, the slots and the pulse widths alone. -/
theorem PassFrame.of_same (ch : Channel) {s t : State} (h : ∀ j, t.chan j = s.chan j) (k : ∀ n, t.slot n = s.slot n)
    (w : ∀ o, (t.output o).width = (s.output o).width) : PassFrame ch s t where
  own := ⟨_, _, _, _, _, h ch⟩
  width := w
  others j _ := ⟨_, _, h j, .refl _, .refl _⟩
  slots n := .inl (k n)

/-- A change of the channel's context, queue or lost latch. -/
theorem PassFrame.modChan (s : State) (ch : Channel) (f : Chan → Chan)
    (h : ∀ c, ∃ cs ls tail queue lost,
      f c = { c with candidates := cs, lockouts := ls, tail := tail, queue := queue, lost := lost }) :
    PassFrame ch s (s.modChan ch f) where
  own := by rw [chan_modChan_same]; exact h _
  width _ := rfl
  others j hj := ⟨_, _, chan_modChan_other _ _ hj, .refl _, .refl _⟩
  slots _ := .inl rfl

theorem PassFrame.offer (ch : Channel) (s : State) (o : Offer) : PassFrame ch s (s.offer o) :=
  .of_same ch (chan_offer s o) (slot_offer s o) fun _ => by rw [output_offer]

theorem PassFrame.forEach {α : Type} {ch : Channel} (items : List α) {f : State → α → State}
    (h : ∀ t a, PassFrame ch t (f t a)) (s : State) :
    PassFrame ch s (Machine.forEach items f s) :=
  forEach_invariant (P := PassFrame ch s) items (fun t a _ ht => ht.trans (h t a)) s (.refl ch s)

theorem PassFrame.loseSymbol (s : State) (ch : Channel) (x : Symbol) : PassFrame ch s (s.loseSymbol ch x) := by
  unfold State.loseSymbol
  split
  · exact .refl _ _
  · exact (PassFrame.modChan s ch _ fun _ => by exact ⟨_, _, _, _, _, rfl⟩).trans (.offer _ _ _)

theorem PassFrame.cancelOldestSwallowing (s : State) (ch : Channel) (t : Time) :
    PassFrame ch s (s.cancelOldestSwallowing ch t) := by
  unfold State.cancelOldestSwallowing
  split
  · exact (PassFrame.modChan s ch _ fun _ => by exact ⟨_, _, _, _, _, rfl⟩).trans (.offer _ _ _)
  · exact .refl _ _

theorem PassFrame.enforceHold (s : State) (ch : Channel) (t : Time) (k : Nat) :
    PassFrame ch s (s.enforceHold ch t k) := by
  induction k generalizing s with
  | zero => exact .refl _ _
  | succ k ih =>
    unfold State.enforceHold
    split
    · exact (PassFrame.cancelOldestSwallowing s ch t).trans (ih _)
    · exact .refl _ _

theorem PassFrame.storeSymbol (s : State) (ch : Channel) (x : Symbol) : PassFrame ch s (s.storeSymbol ch x) := by
  unfold State.storeSymbol
  split
  · exact (PassFrame.modChan s ch _ fun _ => by exact ⟨_, _, _, _, _, rfl⟩).trans (.enforceHold _ _ _ _)
  · exact .loseSymbol s ch x

theorem PassFrame.deliver (s : State) (ch : Channel) (x : Symbol) : PassFrame ch s (s.deliver ch x) := by
  unfold State.deliver
  split
  · split
    · exact PassFrame.modChan s ch _ fun _ => by exact ⟨_, _, _, _, _, rfl⟩
    · exact (PassFrame.modChan s ch _ fun _ => by exact ⟨_, _, _, _, _, rfl⟩).trans (.storeSymbol _ _ _)
  · exact .storeSymbol s ch x

theorem PassFrame.handOn (s : State) (ch : Channel) (x : Symbol) (d : Disposition) :
    PassFrame ch s (s.handOn ch x d) := by
  unfold State.handOn
  split
  · exact PassFrame.modChan s ch _ fun _ => by exact ⟨_, _, _, _, _, rfl⟩
  · exact .deliver s ch x
  · exact .deliver s ch x

theorem PassFrame.passCandidates (s : State) (ch : Channel) (x : Symbol) : PassFrame ch s (s.passCandidates ch x) :=
  (PassFrame.modChan s ch _ fun _ => by exact ⟨_, _, _, _, _, rfl⟩).trans (.forEach _ (fun t _ => .offer ch t _) _)

theorem PassFrame.passSpawning (s : State) (ch : Channel) (x : Symbol) (w : Spawning) :
    PassFrame ch s (s.passSpawning ch x w) := by
  unfold State.passSpawning
  dsimp only
  split
  · exact (PassFrame.modChan s ch _ fun _ => by exact ⟨_, _, _, _, _, rfl⟩).trans (.offer _ _ _)
  · exact PassFrame.modChan s ch _ fun _ => by exact ⟨_, _, _, _, _, rfl⟩

theorem PassFrame.disarmOneShot (ch : Channel) (s : State) (d : Completion) : PassFrame ch s (s.disarmOneShot d) := by
  unfold State.disarmOneShot
  split
  · rename_i r hr
    split
    · rename_i ho
      rw [leaveArmed_eq]
      constructor
      · rw [chan_mk_ofFn]
        exact ⟨_, _, _, _, _, rfl⟩
      · intro _
        rfl
      · intro j _
        rw [chan_mk_ofFn]
        exact ⟨_, _, rfl, List.filter_sublist, List.filter_sublist⟩
      · intro n
        have e : ∀ v, ({ s.setSlot d.pattern (s.slot d.pattern).disarm with chans := v } :
            State).slot n = (s.setSlot d.pattern (s.slot d.pattern).disarm).slot n := fun _ => rfl
        rw [e]
        by_cases hn : n = d.pattern
        · subst hn
          rw [slot_setSlot_same]
          rcases hs : s.slot d.pattern with _ | q | q
          · left; rfl
          · left; rfl
          · right
            rw [hs] at hr
            cases hr
            exact ⟨_, rfl, ho, rfl⟩
        · left; exact slot_setSlot_other s _ hn
    · exact .refl _ _
  · exact .refl _ _

/-- R141, R142: an action changes no pulse width. -/
theorem applyBatch_width (s : State) (batch : List (OutputNum × ActionMode)) (o : OutputNum) :
    ((s.applyBatch batch).output o).width = (s.output o).width := by
  refine forEach_invariant (P := fun t => (t.output o).width = (s.output o).width) batch (fun t a _ ht => ?_) s rfl
  rw [← ht, output_modOutput]
  split
  · rename_i e
    subst e
    unfold Output.act
    split <;> rfl
  · rfl

theorem PassFrame.passCompletions (s : State) (ch : Channel) (x : Symbol) (done : List Completion) :
    PassFrame ch s (s.passCompletions ch x done) := by
  have h1 : PassFrame ch s (Machine.forEach done (fun t d => t.offerMatch ch x d) s) := by
    refine .forEach _ (fun t d => ?_) s
    exact .of_same ch (chan_offerMatch t ch x d) (slot_offerMatch t ch x d) fun _ => by rw [output_offerMatch]
  have h2 := h1.trans (.of_same ch (chan_applyBatch _ (done.filterMap s.actionOf?)) (slot_applyBatch _ _)
    (applyBatch_width _ _))
  have h3 := h2.trans (.forEach done (fun t d => .disarmOneShot ch t d) _)
  unfold State.passCompletions
  dsimp only
  split
  · exact h3.trans (PassFrame.modChan _ ch _ fun _ => by exact ⟨_, _, _, _, _, rfl⟩)
  · exact h3

theorem PassFrame.passPhases (s : State) (ch : Channel) (x : Symbol) : PassFrame ch s (s.passPhases ch x) :=
  (((PassFrame.passCandidates s ch x).trans (.passSpawning _ _ _ _)).trans (.passCompletions _ _ _ _)).trans (.handOn
      _ _ _ _)

/-- What the phases of a pass can change of the state at all. -/
theorem Keeps.eq_of_pass {s t : State}
    (hk : Keeps { chans := true, slots := true, outputs := true, events := true } s t) :
    t = { s with
          chans := t.chans, slots := t.slots, outputs := t.outputs
          eventQueue := t.eventQueue, lostMask := t.lostMask, eventSeq := t.eventSeq
          intLine := t.intLine, wakeLine := t.wakeLine } := by
  obtain ⟨_, h1, h2, _, h3, _, _, _, _, _, _, h4, h5, h6, h7, h8, h9, h10, h11, h12, h13, h14, h15, h16, h17, h18, h19,
    h20, h21, h22, h23, h24, h25, h26, h27, h28⟩ := hk
  cases t
  cases s
  simp only at h1 h2 h3 h4 h5 h6 h7 h8 h9 h10 h11 h12 h13 h14 h15 h16 h17 h18 h19 h20 h21 h22 h23 h24 h25 h26 h27 h28
  simp [h1, h2, h3, h4, h5, h6, h7, h8, h9, h10, h11, h12, h13, h14, h15, h16, h17, h18, h19, h20, h21, h22, h23, h24,
    h25, h26, h27, h28]

end Sys2Proof.Machine
end

