-- ==== Sys2Proof/Laws/Takes.lean ====
section
/-! SUPPORT. Frames, takes and symbols (chapters 1 and 10): what a frame becomes, what a take finds,
and the symbol a take makes. -/

namespace Sys2Proof.Machine

theorem oddMarks_marks (f : Frame) : frameMarks f % 2 = 1 ↔ oddMarks f.data ≠ f.parityMark := by
  obtain ⟨d, pm, sm⟩ := f
  simp only [frameMarks]
  have : ∀ d : Byte, (List.filter (fun i => bitAt d i) (List.range 8)).length % 2 =
      if oddMarks d then 1 else 0 := by decide +kernel
  have := this d
  cases pm <;> cases h : oddMarks d <;> simp [h] at this ⊢ <;> omega

/-- R176, its table as one conditional. -/
theorem judgeFrame_eq (f : Frame) (p : Parity) : judgeFrame f p =
      if f.data = 0 ∧ f.stopMark = false ∧ (p = .off ∨ f.parityMark = false) then .brk
      else if f.stopMark = false then .error f.data .framing
      else if (p = .even ∧ oddMarks f.data ≠ f.parityMark) ∨ (p = .odd ∧ oddMarks f.data = f.parityMark) then
        .error f.data .parity
      else .byte f.data := by
  unfold judgeFrame
  congr 1
  · simp [frameAllSpace, and_assoc]
  · congr 1
    · simp
    · congr 1
      unfold frameParityWrong
      have := oddMarks_marks f
      cases p <;> simp <;> first | omega | (rw [← not_iff_not]; simp only [← ne_eq]; rw [← this]; omega)

theorem takeable?_eq {s : State} {ch : Channel} {e : RawEntry} {rest : List RawEntry} (h : TakesFrom s ch e rest)
    (ho : (s.chan ch).overrunPending = false) : s.takeable? ch = some e := by
  obtain ⟨_, h1, h2, h3⟩ := h
  simp [State.takeable?, State.canTake, h1, h2, h3, ho]

theorem popRaw_eq {s : State} {ch : Channel} {e : RawEntry} {rest : List RawEntry} (h : TakesFrom s ch e rest) :
    s.popRaw ch = s.modChan ch fun c => { c with fifo := rest } := by
  simp [State.popRaw, State.modChan, h.2.2.2]

theorem assemblerAt_stale (x : Serial) (t : Time) (h : x.staleAt t = true) : x.assemblerAt t = .clear := by
  unfold Serial.assemblerAt
  rw [if_pos]; rfl
  unfold Serial.staleAt Serial.prefixDeadline Assembler.hasPrefix at h
  split at h
  · rename_i d hd
    split at hd
    · rename_i hc
      simp at hc
      rw [Option.map_eq_some_iff] at hd
      obtain ⟨p, hp, rfl⟩ := hd
      simp at h
      exact ⟨hc.1, hc.2, p, hp, h⟩
    · simp at hd
  · simp at h

theorem assemblerAt_fresh (x : Serial) (t : Time) (h : x.staleAt t = false) : x.assemblerAt t = x.assembler := by
  unfold Serial.assemblerAt
  rw [if_neg]
  rintro ⟨h1, h2, p, hp, hl⟩
  have hp : x.assembler.prefixStamp = some p := hp
  have : x.assembler.hasPrefix = true := by simpa [Assembler.hasPrefix] using h1
  have h2' : (x.prefixWindow != 0) = true := by simpa using h2
  simp only [Serial.staleAt, Serial.prefixDeadline, this, h2', hp, Bool.and_self, if_true, Option.map_some,
      decide_eq_false_iff_not] at h
  exact h hl

theorem afterByteTake_eq (s : State) (i : SerialChannel) (t : Time) :
    s.afterByteTake i t = (s.popRaw (serialChannel i)).modSer i fun x => { x with assembler := x.assemblerAt t } := by
  unfold State.afterByteTake State.dropStalePrefix
  rw [ser_popRaw]
  split
  · rename_i h
    simp only [State.discardPrefix, State.modSer, ser_popRaw, assemblerAt_stale _ _ h]
  · rename_i h
    simp at h
    simp only [State.modSer, ser_popRaw, assemblerAt_fresh _ _ h]
    exact (setSer_self (s.popRaw (serialChannel i)) i).symm

/-- A command that makes a symbol places it. -/
theorem exec_symbolMade {c : Instr} {s u : State} {ch : Channel} {x : Symbol} (h : SymbolMade s c ch x u) :
    exec c s = .next (u.placeSymbol ch x) := by
  cases h with
  | plain i v t rest takes ho hp =>
    simp [exec, execTakePlainByte, afterGrant_settled takes.1,
        State.takePlain, State.takeByte, takeable?_eq takes ho, hp, afterByteTake_eq, popRaw_eq takes,
        State.makeSymbol, State.discardPrefix, State.modSer, State.modChan, setChan_setSer, Chan.afterTake,
        dataSymbol, Assembler.clear]
  | error i v ty t rest takes ho =>
    cases ty <;> simp [exec, execTakeErrorEntry, afterGrant_settled takes.1,
        State.takeError, takeable?_eq takes ho, popRaw_eq takes, State.makeSymbol,
        State.discardPrefix, State.modSer, State.modChan, setChan_setSer, Chan.afterTake, errorSymbol,
        Assembler.clear, errorTypeOf, channelOffer, ← offer_setChan]
  | brk i t rest takes ho =>
    simp [exec, execTakeBreakEntry, afterGrant_settled takes.1,
        State.takeBreak, takeable?_eq takes ho, popRaw_eq takes, State.makeSymbol, State.discardPrefix,
        State.modSer, State.modChan, setChan_setSer, Chan.afterTake, breakSymbol, Assembler.clear]
  | overrun i e rest takes ho =>
    obtain ⟨h0, h1, h2, h3⟩ := takes
    have h1' : ∀ m : Mode, m ≠ .off → (m != .off) = true := by intro m; cases m <;> simp
    have h1 := h1' _ h1
    simp [exec, execOverrunTake, afterGrant_settled h0,
        State.takeOverrun, State.canTake, h1, h2, h3, ho, State.discardPrefixOf, State.makeSymbol,
        State.discardPrefix, State.modSer, State.modChan, setChan_setSer, Chan.afterTake, errorSymbol, Assembler.clear]
  | overrunOnLines e rest takes ho =>
    obtain ⟨h0, h1, h2, h3⟩ := takes
    have h1' : ∀ m : Mode, m ≠ .off → (m != .off) = true := by intro m; cases m <;> simp
    have h1 := h1' _ h1
    simp [exec, execOverrunTake, afterGrant_settled h0,
        State.takeOverrun, State.canTake, h1, h2, h3, ho, State.discardPrefixOf, State.makeSymbol,
        State.modChan, Chan.afterTake, errorSymbol]
  | line num active t rest takes ho =>
    simp [exec, execTakeLineEntry, afterGrant_settled takes.1,
        State.takeLine, takeable?_eq takes ho, popRaw_eq takes, State.makeSymbol, State.modChan,
        Chan.afterTake, lineSymbol, byteOf]

theorem symbolMade_chan {c : Instr} {s u : State} {ch : Channel} {x : Symbol} (h : SymbolMade s c ch x u) :
    ∃ f o, u.chan ch =
      { s.chan ch with fifo := f, arrivalCounter := (s.chan ch).arrivalCounter + 1, overrunPending := o } := by
  cases h <;> simp [State.modChan, State.modSer, Chan.afterTake]

end Sys2Proof.Machine
end

