-- ==== Sys2Proof/Tests/Slice0.lean ====
section
/-! SUPPORT. The model's own tests. A `test_` theorem is one step on a small state, its expected result worked out from
the rule or the worked sequence (chapter 12) that its comment names. A `witness_` theorem shows a concrete state that
meets the hypotheses of the statement it is named after. -/

namespace Sys2Proof.Tests

open Sys2Proof Sys2Proof.Machine

-- Each kernel evaluation would hold a thread of its own while the file runs on; one after another they need no more.
set_option Elab.async false

/-! ## Helpers -/

/-- The state a command leaves; no outcome but `next` occurs. -/
def after (c : Instr) (s : State) : State :=
  match exec c s with
  | .next t => t
  | .fault _ => s
  | .refused _ => s

/-- The reset state with RESET still asserted. -/
def held : State := { State.reset with inReset := true }

/-- The reset state with CONFIG_ADDR at an address. -/
def pointed (a : Fin 64) : State := { State.reset with configAddr := a }

/-- A symbol of a channel without extension or error. -/
def sym (ch : Channel) (k : SymbolKind) (code : Byte) (release : Bool) (stamp arrival : Nat) : Symbol :=
  ⟨ch, k, code, .plain, release, none, stamp, arrival⟩

/-- An element of chapter 12: SYMBOL, width 8, extension NONE, release PRESS. -/
def press (code : Byte) : Element := ⟨.symbol, code, 8, .plain, .press⟩

/-- A pattern with everything optional off: EXACT, not swallowing, gap 0, RESTART, REPEAT, no action. -/
def plainPattern (channels : BitVec 4) (length : Nat) : Pattern :=
  { channels, length, level := 0, tag := 0, gap := 0, pressOnly := false, swallow := false, tail := 0,
    lockout := false, threshold := 0, lockoutTime := 0, oneShot := false, clearOnComplete := false,
    actionOutput := none, actionMode := .set }

/-- A pattern ARMED in a slot with its run at an address. -/
def armedAt (s : State) (n : PatternNum) (p : Pattern) (start : Nat) (es : List Element) : State :=
  s.placeRun n (.armed ⟨p, start⟩) start es

/-- A channel in MATCH whose ready slot holds a symbol, the arbiter decided for the match unit. -/
def readyWith (s : State) (ch : Channel) (x : Symbol) : State :=
  { s.modChan ch (fun c => { c with mode := .matching, ready := some x, arrivalCounter := x.arrival + 1 }) with
    grant := .decided .matchUnit, timeBase := x.stamp }

/-- A command pending and granted. -/
def granted (s : State) (code : Byte) (operand : Byte) : State :=
  { s with grant := .decided .table, pendingCommand := some code, operand := operand }

/-- An event of a level, otherwise bare. -/
def eventOf (seq : Byte) (l : EventLevel) : EventRecord := ⟨seq, .matched, l, none, none, none, 0⟩

/-! ## Operand checks -/

theorem test_refuses_positions : Instr.wellFormed (.gapDeadlineExpiry 0 0 0) = false
    ∧ Instr.wellFormed (.gapDeadlineExpiry 0 0 16) = false ∧ Instr.wellFormed (.gapDeadlineExpiry 0 0 15) = true := by
  decide

theorem test_refuses_stage_addr : Instr.wellFormed (.stageAddrWrite 58) = false
    ∧ Instr.wellFormed (.stageAddrWrite 57) = true := by decide

theorem test_refuses_config_addr : Instr.wellFormed (.configAddrWrite 64) = false
    ∧ Instr.wellFormed (.configAddrWrite 63) = true := by decide

theorem test_refuses_modes : Instr.wellFormed (.modeOutOfOff 0) = false ∧ Instr.wellFormed (.modeOutOfOff 3) = false
    ∧ Instr.wellFormed (.modeBypassMatch 0) = false ∧ Instr.wellFormed (.modeBypassMatch 3) = false
    ∧ Instr.wellFormed (.modeOutOfOff 2) = true := by decide

theorem test_refuses_parity_code_3 : Instr.wellFormed (.lineSettingsWrite 0x1F) = false
    ∧ Instr.wellFormed (.lineSettingsWrite 0x17) = true := by decide

theorem test_refuses_hold_limits : Instr.wellFormed (.holdLimitWrite 0) = false
    ∧ Instr.wellFormed (.holdLimitWrite 33) = false ∧ Instr.wellFormed (.holdLimitWrite 32) = true := by decide

theorem test_refuses_levels_and_floors : Instr.wellFormed (.eventLevelWrite 5) = false
    ∧ Instr.wellFormed (.wakeFloorWrite 5) = false ∧ Instr.wellFormed (.arbiterModeWrite 3) = false
    ∧ Instr.wellFormed (.pulseWidthWrite 0) = false := by decide

theorem test_refuses_selections : Instr.wellFormed (.classSelWrite 4) = false
    ∧ Instr.wellFormed (.classDataWrite 5) = false ∧ Instr.wellFormed (.chanSelWrite 4) = false := by decide

/-- No row of the table gives bits. -/
theorem test_no_word_spells_a_command : decodeTableWord 8 0 = none ∧ State.reset.withFetchWord 8 0 = State.reset :=
  ⟨rfl, rfl⟩

/-! ## The machine, reset and the host's accesses -/

theorem witness_stepRunsFrontCommand : State.reset.pending = [] := rfl

/-- A queue of two: the first is run, the second stays. -/
theorem test_step_takes_the_front :
    step { State.reset with pending := [.chanSelWrite 2, .flush] }
      = .next { State.reset with chanSel := 2, pending := [.flush] } := rfl

theorem witness_resetHoldsThePart : held.inReset = true ∧ HeldInReset held
    ∧ exec (.outputsWrite 0xFF) held = .next held := ⟨rfl, fun _ => rfl, rfl⟩

/-- R191: assertion holds the part, release lets it run. -/
theorem test_device_reset : (after (.deviceReset true) (pointed 9)).inReset = true
    ∧ (after (.deviceReset false) held).inReset = false ∧ (after (.deviceReset true) (pointed 9)).configAddr = 0 := by
  decide +kernel

theorem witness_registerWrites_address (a : Fin 64) :
    (pointed a).inReset = false ∧ Settled (pointed a) ∧ (pointed a).configAddr.val = a.val :=
  ⟨rfl, ⟨by simp [pointed, State.reset], by simp [pointed, State.reset]⟩, rfl⟩

theorem witness_registerWrites_modes :
    Settled (pointed 3) ∧ Settled ((pointed 3).modChan 3 fun c => { c with mode := .bypass })
      ∧ Settled ((pointed 3).modChan 3 fun c => { c with mode := .matching }) ∧ ((pointed 3).chan 3).mode = .off
        ∧ (((pointed 3).modChan 3 fun c => { c with mode := .bypass }).chan 3).mode = .bypass
      ∧ (((pointed 3).modChan 3 fun c => { c with mode := .matching }).chan 3).mode = .matching := by decide +kernel

theorem witness_registerWrites_requests (v : Byte) (h : v ∈ [(0xFC : Byte), 0xFD, 0xFE, 0xFF]) :
    State.reset.inReset = false ∧ Settled State.reset ∧ (∃ t, exec .take State.reset = .next t)
      ∧ (∃ t, exec .next State.reset = .next t)
      ∧ (v.getLsbD 0, v.getLsbD 1) ∈ [(false, false), (true, false), (false, true), (true, true)] :=
  ⟨rfl, by decide, ⟨_, rfl⟩, ⟨_, rfl⟩, by revert v; decide⟩

/-- R197: a write to a read-only register is ignored; R144: 0x15 is OUTPUTS. -/
theorem test_register_write : after (.registerWrite 0x01 0xFF) State.reset = State.reset
    ∧ ((after (.registerWrite 0x15 0x22) State.reset).output 1).level = .high := ⟨rfl, by decide +kernel⟩

/-- A channel with a held take latch, a presented event and a symbol queued, for the reads. -/
def shown : State :=
  { State.reset.modChan 0 (fun c => { c with latch := some (sym 0 .line 5 true 0x12345 9) }) with
    presented := some ⟨7, .lockout, 2, some 1, some 63, none, 0xBEEF⟩ }

theorem witness_registersShowState : State.reset.inReset = false ∧ Settled State.reset ∧ WithinCapacity State.reset
    ∧ shown.inReset = false ∧ Settled shown ∧ WithinCapacity shown ∧ (shown.chan shown.chanSel).latch ≠ none
    ∧ shown.presented ≠ none := by
  unfold WithinCapacity
  decide +kernel

/-- R198, R199: LATCH_FLAGS, the stamp's low half, EV_HEAD, EV_PATTERN and EV_STAMP. -/
theorem test_register_reads : shown.readRegister 0x19 = 0x25 ∧ shown.readRegister 0x1A = 0x45
    ∧ shown.readRegister 0x1B = 0x23 ∧ shown.readRegister 0x0E = 0xE3 ∧ shown.readRegister 0x11 = 63
    ∧ shown.readRegister 0x13 = 0xEF ∧ shown.readRegister 0x14 = 0xBE ∧ shown.readRegister 0x00 = 0x4B := by
  decide +kernel

/-! ## Receivers, line scanner and FIFOs -/

/-- CH0 in MATCH with a frame being received, under a parity. -/
def receiving (p : Parity) : State :=
  (State.reset.modChan 0 fun c => { c with mode := .matching }).modSer 0 fun x =>
    { x with rxMark := false, reception := .frame, parity := p }

/-- A raw entry of a byte. -/
def rawByte (v : Byte) (t : Nat) : RawEntry := ⟨.byte v, t⟩

/-- The state with a full FIFO on a channel. -/
def full (s : State) (ch : Channel) : State :=
  s.modChan ch fun c => { c with fifo := List.replicate 8 (rawByte 0 0) }

theorem witness_frameMakesItsEntry : Settled (receiving .odd) ∧ ((receiving .odd).ser 0).reception = .frame
    ∧ ((receiving .odd).chan (serialChannel 0)).fifo.length < 8 := by decide +kernel

/-- R176: 0x61 has three bits at mark: good under ODD with a parity bit at space, wrong under EVEN; an all-space frame
is a BREAK under any parity; a bad stop bit is FRAMING whatever the parity. -/
theorem test_frame_received :
    ((after (.frameReceived 0 ⟨0x61, false, true⟩) (receiving .odd)).chan 0).fifo = [⟨.byte 0x61, 0⟩]
      ∧ ((after (.frameReceived 0 ⟨0x61, false, true⟩) (receiving .even)).chan 0).fifo = [⟨.error 0x61 .parity, 0⟩]
      ∧ ((after (.frameReceived 0 ⟨0, false, false⟩) (receiving .odd)).chan 0).fifo = [⟨.brk, 0⟩]
      ∧ ((after (.frameReceived 0 ⟨0, true, false⟩) (receiving .odd)).chan 0).fifo = [⟨.error 0 .framing, 0⟩] := by
  decide +kernel

/-- R177: MARK_WAIT after a break. -/
theorem test_frame_received_leaves_markWait :
    ((after (.frameReceived 0 ⟨0, false, false⟩) (receiving .off)).ser 0).reception = .markWait
      ∧ ((after (.frameReceived 0 ⟨0xFF, false, true⟩) (receiving .off)).ser 0).reception = .idle := by decide +kernel

/-- CH3 in BYPASS, L0 enabled with a change to LOW pending since 0, the time base at 10. -/
def scanning : State :=
  { (State.reset.modChan 3 fun c => { c with mode := .bypass }).modLine 0 (fun l =>
      { l with raw := .low, enabled := true, debounced := some .high, change := some ⟨.low, 0⟩ }) with
    timeBase := 10 }

theorem witness_arrivalAtFullFifoIsLost : Settled (full (receiving .off) 0) ∧ Settled (full scanning 3) ∧
    ((full (receiving .off) 0).ser 0).reception = .frame ∧ 8 ≤ ((full (receiving .off) 0).chan (serialChannel 0)).fifo.length
      ∧ ((full (receiving .off) 0).chan (serialChannel 0)).overrunPending = false
      ∧ ((full scanning 3).line 0).raw = .low ∧ ((full scanning 3).line 0).change = some ⟨.low, 0⟩
      ∧ 0 + (full scanning 3).debounce.toNat ≤ (full scanning 3).timeBase
      ∧ ((full scanning 3).chan lineChannel).mode ≠ .off ∧ 8 ≤ ((full scanning 3).chan lineChannel).fifo.length
      ∧ ((full scanning 3).chan lineChannel).overrunPending = false := by decide +kernel

theorem witness_arrivalAtFullFifoIsLost_again :
    let s := (full (full scanning 3) 0).modSer 0 fun x => { x with reception := .frame }
    let u := (s.modChan 0 fun c => { c with overrunPending := true }).modChan 3 fun c => { c with overrunPending := true }
    Settled u ∧ (u.ser 0).reception = .frame ∧ 8 ≤ (u.chan (serialChannel 0)).fifo.length
      ∧ (u.chan (serialChannel 0)).overrunPending = true ∧ (u.chan lineChannel).overrunPending = true
      ∧ (u.chan lineChannel).mode ≠ .off ∧ 8 ≤ (u.chan lineChannel).fifo.length := by decide +kernel

/-- CH3 in BYPASS, L7 enabled at HIGH with nothing pending, under a debounce time. -/
def steadyLine (debounce : Byte) : State :=
  { (State.reset.modChan 3 fun c => { c with mode := .bypass }).modLine 7 (fun l =>
      { l with enabled := true, debounced := some .high }) with
    debounce := debounce, timeBase := 40 }

/-- The raw change itself, with debounce time 0, before the first loss and after it. -/
theorem witness_arrivalAtFullFifoIsLost_undebounced : ∀ pending ∈ [false, true],
    let s := (full (steadyLine 0) 3).modChan 3 fun c => { c with overrunPending := pending }
    Settled s ∧ (s.line 7).raw ≠ .low ∧ s.debounce = 0 ∧ (s.line 7).change = none ∧ (s.line 7).debounced = some .high
      ∧ (s.chan lineChannel).mode ≠ .off ∧ 8 ≤ (s.chan lineChannel).fifo.length
      ∧ (s.chan lineChannel).overrunPending = pending := by decide +kernel

/-- CH0 out of OFF, its receiver in a reception state, its line at a level. -/
def receiverAt (r : Reception) (mark : Bool) : State :=
  (State.reset.modChan 0 fun c => { c with mode := .bypass }).modSer 0 fun x =>
    { x with rxMark := mark, reception := r }

theorem witness_receiverFollowsItsLine :
    (∀ r ∈ [Reception.idle, .frame, .markWait], ∀ m, Settled (receiverAt r m)) ∧ Settled State.reset
      ∧ (((receiverAt .idle true).ser 0).reception = .idle ∧ ((receiverAt .idle true).ser 0).rxMark = true)
      ∧ ((State.reset.ser 0).reception ≠ .idle ∧ (State.reset.ser 0).rxMark = true)
      ∧ ((receiverAt .frame false).ser 0).reception = .frame
      ∧ (((receiverAt .markWait false).ser 0).reception = .markWait ∧ ((receiverAt .markWait false).ser 0).rxMark = false)
      ∧ (((receiverAt .frame false).ser 0).reception ≠ .markWait ∧ ((receiverAt .frame false).ser 0).rxMark = false) := by
  decide +kernel

theorem test_frame_start_false_start_and_mark_wait_end :
    ((after (.frameStart 0) (receiverAt .idle true)).ser 0).reception = .frame
      ∧ ((after (.falseStart 0) (receiverAt .frame false)).ser 0).reception = .idle
      ∧ ((after (.markWaitEnd 0) (receiverAt .markWait false)).ser 0).reception = .idle := by decide +kernel

theorem witness_lineScannerDebounces_changes :
    Settled State.reset ∧ Settled scanning ∧ Settled (steadyLine 1) ∧ Settled (steadyLine 0)
      ∧ ((State.reset.line 7).raw ≠ .low ∧ (State.reset.line 7).debounced = none)
      ∧ ((scanning.line 0).raw ≠ .high ∧ (scanning.line 0).debounced = some .high)
      ∧ (((steadyLine 1).line 7).raw ≠ .low ∧ ((steadyLine 1).line 7).debounced = some .high
          ∧ ((steadyLine 1).line 7).change = none ∧ (steadyLine 1).debounce ≠ 0)
      ∧ ((steadyLine 0).debounce = 0 ∧ ((steadyLine 0).line 7).raw ≠ .low
          ∧ ((steadyLine 0).line 7).debounced = some .high ∧ ((steadyLine 0).line 7).change = none
          ∧ ((steadyLine 0).chan lineChannel).mode ≠ .off ∧ ((steadyLine 0).chan lineChannel).fifo.length < 8)
      ∧ (((steadyLine 0).modChan 3 fun c => { c with mode := .off }).chan lineChannel).mode = .off := by decide +kernel

theorem witness_lineScannerDebounces_due :
    let off := scanning.modChan 3 fun c => { c with mode := .off }
    Settled off ∧ ((scanning.line 0).change = some ⟨.low, 0⟩ ∧ 0 + scanning.debounce.toNat ≤ scanning.timeBase
        ∧ (scanning.chan lineChannel).mode ≠ .off ∧ (scanning.chan lineChannel).fifo.length < 8)
      ∧ (off.line 0).change = some ⟨.low, 0⟩ ∧ 0 + off.debounce.toNat ≤ off.timeBase
      ∧ (off.chan lineChannel).mode = .off := by decide +kernel

/-- R179, R180: polarity active-low, so a debounced LOW is reported active, stamped with the time base. -/
theorem test_debounced_change : ((after (.debouncedChange 0) scanning).chan 3).fifo = [⟨.line 0 true, 10⟩]
    ∧ (after (.debouncedChange 0) scanning).line 0 = ⟨.low, true, false, some .low, none⟩ := by decide +kernel

/-- R180: the change back before it is due leaves no trace but the raw level. -/
theorem test_raw_change : (after (.rawChange 0 .high) scanning).line 0 = ⟨.high, true, false, some .high, none⟩
    ∧ ((after (.rawChange 7 .low) (steadyLine 5)).line 7).change = some ⟨.low, 40⟩ := by decide +kernel

theorem witness_injectionArrives :
    let serial := State.reset.modChan 0 fun c => { c with mode := .bypass }
    let lines := { scanning with chanSel := 3 }
    Settled State.reset ∧ Settled (full serial 0) ∧ Settled serial ∧ Settled lines ∧ (State.reset.inReset = false
      ∧ (State.reset.chan State.reset.chanSel).mode = .off)
      ∧ (8 ≤ ((full serial 0).chan (full serial 0).chanSel).fifo.length)
      ∧ (serial.inReset = false ∧ (serial.chan serial.chanSel).mode ≠ .off
          ∧ (serial.chan serial.chanSel).fifo.length < 8 ∧ serial.chanSel ≠ lineChannel)
      ∧ lines.inReset = false ∧ (lines.chan lines.chanSel).mode ≠ .off ∧ (lines.chan lines.chanSel).fifo.length < 8
      ∧ lines.chanSel = lineChannel ∧ (7 : LineNum).val = (0x87 : Byte).toNat % 8 := by decide +kernel

/-- R184, R197: on CH3 bits 0–2 give the line and bit 7 ACTIVE. -/
theorem test_inject : ((after (.inject 0x87) { scanning with chanSel := 3 }).chan 3).fifo = [⟨.line 7 true, 10⟩]
    ∧ ((after (.inject 0x87) State.reset).chan 0).injectRefused = true := by decide +kernel

/-! ## Takes -/

/-- CH1 in a mode with one raw entry waiting, arrival counter 5, and a class map with 0xF0 RELEASE, 0xE0 LEAD_A,
0xE1 LEAD_B and 0x00 DROP. -/
def taking (m : Mode) (k : RawKind) : State :=
  { (State.reset.modChan 1 fun c => { c with mode := m, fifo := [⟨k, 100⟩], arrivalCounter := 5 }).modSer 1 (fun x =>
      { x with
        classMap := (((x.classMap.set 0xF0 .release).set 0xE0 .leadA).set 0xE1 .leadB).set 0x00 .drop
        assembler := ⟨.b, true, some 90⟩ }) with
    timeBase := 100 }

/-- The same with the prefix 21 ms old, one more than its window. -/
def takingStale (k : RawKind) : State :=
  (taking .matching k).modSer 1 fun x => { x with assembler := ⟨.b, true, some 79⟩ }

theorem witness_prefixBytes :
    ∀ q ∈ [((0xF0 : Byte), ByteClass.release), (0xE0, .leadA), (0xE1, .leadB), (0x00, .drop)],
      TakesFrom (taking .matching (.byte q.1)) (serialChannel 1) ⟨.byte q.1, 100⟩ []
        ∧ ((taking .matching (.byte q.1)).chan (serialChannel 1)).overrunPending = false
        ∧ ((taking .matching (.byte q.1)).ser 1).classMap[q.1.toNat] = q.2 := by
  unfold TakesFrom
  decide +kernel

theorem test_take_lead_and_release_bytes :
    ((after (.takeLeadByte 1) (taking .matching (.byte 0xE0))).ser 1).assembler = ⟨.a, true, some 100⟩
      ∧ ((after (.takeLeadByte 1) (takingStale (.byte 0xE1))).ser 1).assembler = ⟨.b, false, some 100⟩
      ∧ ((after (.takeReleaseByte 1) (takingStale (.byte 0xF0))).ser 1).assembler = ⟨.plain, true, some 100⟩ := by
  decide +kernel

theorem test_take_drop_byte : ((after (.takeDropByte 1) (taking .matching (.byte 0))).ser 1).assembler = ⟨.b, true, some 90⟩
    ∧ ((after (.takeDropByte 1) (taking .matching (.byte 0))).chan 1).fifo = []
    ∧ ((after (.takeDropByte 1) (taking .matching (.byte 0))).chan 1).arrivalCounter = 5 := by decide +kernel

/-- For SymbolWaitsInMatch; the five other cases of `SymbolMade` follow. -/
theorem witness_symbolWaitsInMatch :
    (∃ u, SymbolMade (taking .matching (.byte 0x41)) (.takePlainByte 1) 1
        ⟨1, .data, 0x41, .b, true, none, 100, 5⟩ u)
      ∧ ((taking .matching (.byte 0x41)).chan 1).mode = .matching :=
  ⟨⟨_, .plain 1 0x41 100 [] (by unfold TakesFrom; decide +kernel) (by decide +kernel) (by decide +kernel)⟩,
    by decide +kernel⟩

theorem witness_symbolMade_errorAndBreak :
    (∃ u, SymbolMade (taking .matching (.error 0x41 .framing)) (.takeErrorEntry 1) 1
        ⟨1, .error, 0x41, .plain, false, some .framing, 100, 5⟩ u)
      ∧ ∃ u, SymbolMade (taking .matching .brk) (.takeBreakEntry 1) 1 ⟨1, .brk, 0, .plain, false, none, 100, 5⟩ u :=
  ⟨⟨_, .error 1 0x41 .framing 100 [] (by unfold TakesFrom; decide +kernel) (by decide +kernel)⟩,
    _, .brk 1 100 [] (by unfold TakesFrom; decide +kernel) (by decide +kernel)⟩

/-- An overrun pending on CH1, its FIFO full. -/
def overrun : State := (full (taking .bypass .brk) 1).modChan 1 fun c => { c with overrunPending := true }

/-- CH3 in BYPASS with a LINE entry waiting, and with an overrun pending. -/
def lineWaiting (overrun : Bool) : State :=
  State.reset.modChan 3 fun c =>
    { c with mode := .bypass, fifo := [⟨.line 4 false, 0⟩], overrunPending := overrun }

theorem witness_symbolMade_overrunAndLine :
    (∃ u, SymbolMade overrun (.overrunTake 1) 1 ⟨1, .error, 0, .plain, false, some .overrun, 0, 5⟩ u)
      ∧ (∃ u, SymbolMade (lineWaiting true) (.overrunTake 3) 3 ⟨3, .error, 0, .plain, false, some .overrun, 0, 0⟩ u)
      ∧ ∃ u, SymbolMade (lineWaiting false) .takeLineEntry 3 ⟨3, .line, 4, .plain, true, none, 0, 0⟩ u :=
  ⟨⟨_, .overrun 1 (rawByte 0 0) (List.replicate 7 (rawByte 0 0)) (by unfold TakesFrom; decide +kernel)
      (by decide +kernel)⟩,
    ⟨_, .overrunOnLines ⟨.line 4 false, 0⟩ [] (by unfold TakesFrom; decide +kernel) (by decide +kernel)⟩,
    _, .line 4 false 0 [] (by unfold TakesFrom; decide +kernel) (by decide +kernel)⟩

/-- CH1 in BYPASS with a break waiting and a queue of a length. -/
def bypassing (n : Nat) (lost : Bool) : State :=
  (taking .bypass .brk).modChan 1 fun c =>
    { c with queue := (List.range n).map fun k => sym 1 .data 0 false 0 k, lost := lost, arrivalCounter := n }

/-- Room for one more, and a full queue after and before the first loss. -/
theorem witness_symbolDeliveredInBypass : ∀ q ∈ [(31, false), (32, false), (32, true)],
    (∃ u, SymbolMade (bypassing q.1 q.2) (.takeBreakEntry 1) 1 ⟨1, .brk, 0, .plain, false, none, 100, q.1⟩ u)
      ∧ ((bypassing q.1 q.2).chan 1).mode = .bypass
      ∧ ((bypassing q.1 q.2).chan 1).tail = none ∧ ((bypassing q.1 q.2).chan 1).candidates = []
      ∧ ((bypassing q.1 q.2).chan 1).queue.length = q.1 ∧ ((bypassing q.1 q.2).chan 1).lost = q.2 := by
  have h : ∀ q ∈ [(31, false), (32, false), (32, true)],
      (TakesFrom (bypassing q.1 q.2) (serialChannel 1) ⟨.brk, 100⟩ []
          ∧ ((bypassing q.1 q.2).chan (serialChannel 1)).overrunPending = false
          ∧ ((bypassing q.1 q.2).chan (serialChannel 1)).arrivalCounter = q.1)
        ∧ ((bypassing q.1 q.2).chan 1).mode = .bypass
        ∧ ((bypassing q.1 q.2).chan 1).tail = none ∧ ((bypassing q.1 q.2).chan 1).candidates = []
        ∧ ((bypassing q.1 q.2).chan 1).queue.length = q.1 ∧ ((bypassing q.1 q.2).chan 1).lost = q.2 := by
    unfold TakesFrom
    decide +kernel
  intro q hq
  obtain ⟨⟨takes, noOverrun, counter⟩, rest⟩ := h q hq
  have made := SymbolMade.brk 1 100 [] takes noOverrun
  rw [counter] at made
  exact ⟨⟨_, made⟩, rest⟩

/-- R13, R15: a fresh prefix qualifies the symbol, a stale one does not. -/
theorem test_take_plain_byte :
    ((after (.takePlainByte 1) (taking .matching (.byte 0x41))).chan 1).ready
        = some ⟨1, .data, 0x41, .b, true, none, 100, 5⟩
      ∧ ((after (.takePlainByte 1) (takingStale (.byte 0x41))).chan 1).ready
        = some ⟨1, .data, 0x41, .plain, false, none, 100, 5⟩
      ∧ (after (.takePlainByte 1) (taking .matching (.byte 0x41))).grant = .decided .matchUnit := by decide +kernel

theorem test_take_error_and_break_entries :
    ((after (.takeErrorEntry 1) (taking .bypass (.error 0x41 .framing))).chan 1).queue
        = [⟨1, .error, 0x41, .plain, false, some .framing, 100, 5⟩]
      ∧ ((after (.takeBreakEntry 1) (taking .bypass .brk)).chan 1).queue = [⟨1, .brk, 0, .plain, false, none, 100, 5⟩]
      ∧ ((after (.takeBreakEntry 1) (taking .bypass .brk)).ser 1).assembler = ⟨.plain, false, none⟩ := by
  decide +kernel

/-- R20: the head entry keeps its place, and gives the stamp. -/
theorem test_overrun_take : ((after (.overrunTake 1) overrun).chan 1).queue
      = [⟨1, .error, 0, .plain, false, some .overrun, 0, 5⟩]
    ∧ ((after (.overrunTake 1) overrun).chan 1).fifo.length = 8
    ∧ ((after (.overrunTake 1) overrun).chan 1).overrunPending = false := by decide +kernel

/-- R21: an inactive line is a release symbol. -/
theorem test_take_line_entry : ((after .takeLineEntry (lineWaiting false)).chan 3).queue
    = [⟨3, .line, 4, .plain, true, none, 0, 0⟩] := by decide +kernel

/-- CH1 with a prefix stamped 79 under window 20, a raw entry waiting at 100. -/
def prefixDue (timeBase : Nat) (entry : Nat) : State :=
  { (takingStale .brk).modChan 1 (fun c => { c with fifo := [⟨.brk, entry⟩] }) with timeBase := timeBase }

theorem witness_prefixExpires : ∀ q ∈ [(100, 100), (99, 100), (100, 99)],
    Settled (prefixDue q.1 q.2) ∧ ((prefixDue q.1 q.2).ser 1).assembler.rel = true
      ∧ ((prefixDue q.1 q.2).ser 1).assembler.prefixStamp = some 79
      ∧ 79 + ((prefixDue q.1 q.2).ser 1).prefixWindow.toNat = 99
      ∧ (prefixDue q.1 q.2).timeBase = q.1
      ∧ ((prefixDue q.1 q.2).chan (serialChannel 1)).fifo.map (·.stamp) = [q.2] := by decide +kernel

theorem witness_prefixExpires_nothingToExpire : Settled State.reset ∧ ¬((State.reset.ser 1).assembler.ext ≠ .plain
    ∨ (State.reset.ser 1).assembler.rel = true) := by decide +kernel

/-- R16: the deadline is 99: an entry at 100 lets it expire at time base 100, an entry at 99 does not. -/
theorem test_prefix_expiry : ((after (.prefixExpiry 1) (prefixDue 100 100)).ser 1).assembler = ⟨.plain, false, none⟩
    ∧ ((after (.prefixExpiry 1) (prefixDue 100 99)).ser 1).assembler = ⟨.b, true, some 79⟩
    ∧ ((after (.prefixExpiry 1) (prefixDue 99 100)).ser 1).assembler = ⟨.b, true, some 79⟩ := by decide +kernel

theorem witness_prefixExpiryAgreesWithStaleTest :
    ∀ q ∈ [(Instr.takePlainByte 1, (0x41 : Byte), ByteClass.plain), (.takeLeadByte 1, 0xE0, .leadA),
        (.takeLeadByte 1, 0xE1, .leadB), (.takeReleaseByte 1, 0xF0, .release), (.takeDropByte 1, 0x00, .drop)],
      (TakesFrom (takingStale (.byte q.2.1)) (serialChannel 1) ⟨.byte q.2.1, 100⟩ []
        ∧ ((takingStale (.byte q.2.1)).chan (serialChannel 1)).overrunPending = false
        ∧ ((takingStale (.byte q.2.1)).ser 1).classMap[q.2.1.toNat] = q.2.2)
        ∧ ∃ t, exec (.prefixExpiry 1) (takingStale (.byte q.2.1)) = .next t := by
  have h : ∀ v ∈ [((0x41 : Byte), ByteClass.plain), (0xE0, .leadA), (0xE1, .leadB), (0xF0, .release), (0x00, .drop)],
      TakesFrom (takingStale (.byte v.1)) (serialChannel 1) ⟨.byte v.1, 100⟩ []
        ∧ ((takingStale (.byte v.1)).chan (serialChannel 1)).overrunPending = false
        ∧ ((takingStale (.byte v.1)).ser 1).classMap[v.1.toNat] = v.2 := by
    unfold TakesFrom
    decide +kernel
  exact fun q hq => ⟨h q.2 (List.mem_map_of_mem (f := Prod.snd) hq), _, rfl⟩

/-! ## The arbiter -/

/-- A grant held, with or without a symbol ready on CH2 and a command pending. -/
def contending (ready table : Bool) (m : ArbiterMode) (last : Claimant) : State :=
  { State.reset.modChan 2 (fun c =>
      { c with mode := .matching, ready := if ready then some (sym 2 .data 0 false 0 0) else none }) with
    grant := .held .table, arbiterMode := m, lastGrant := last, pendingCommand := if table then some 7 else none }

theorem witness_grantEndDecides :
    ((contending false false .matchFirst .table).grant = .held .table
        ∧ ¬MatchWaits (contending false false .matchFirst .table) ∧ ¬TableWaits (contending false false .matchFirst .table))
      ∧ (MatchWaits (contending true false .matchFirst .table) ∧ ¬TableWaits (contending true false .matchFirst .table))
      ∧ (¬MatchWaits (contending false true .matchFirst .table) ∧ TableWaits (contending false true .matchFirst .table))
      ∧ MatchWaits (contending true true .alternate .table) ∧ TableWaits (contending true true .alternate .table)
      ∧ (contending true true .alternate .table).arbiterMode = .alternate
      ∧ (contending true true .alternate .table).lastGrant = .table
      ∧ MatchWaits (contending true true .matchFirst .table) ∧ TableWaits (contending true true .matchFirst .table)
      ∧ MatchWaits (contending true true .tableFirst .matchUnit)
      ∧ (contending true true .alternate .matchUnit).lastGrant = .matchUnit := by
  unfold MatchWaits TableWaits ReadyChannel
  decide +kernel

theorem test_grant_end :
    (after .grantEnd (contending true true .alternate .matchUnit)).grant = .decided .table
      ∧ (after .grantEnd (contending true true .matchFirst .matchUnit)).grant = .decided .matchUnit
      ∧ (after .grantEnd (contending true true .tableFirst .table)).grant = .decided .table
      ∧ (after .grantEnd (contending false false .tableFirst .table)).grant = .free := by decide +kernel

theorem witness_commandWriteClaims :
    Settled (contending false true .matchFirst .table) ∧ Settled (contending true false .matchFirst .table)
      ∧ Settled State.reset ∧ ((contending false true .matchFirst .table).inReset = false
        ∧ (contending false true .matchFirst .table).pendingCommand ≠ none)
      ∧ ((contending true false .matchFirst .table).pendingCommand = none
          ∧ (contending true false .matchFirst .table).grant ≠ .free)
      ∧ State.reset.pendingCommand = none ∧ State.reset.grant = .free ∧ ¬MatchWaits State.reset := by
  unfold MatchWaits ReadyChannel
  decide +kernel

theorem test_command_write : (after (.commandWrite 7) State.reset).pendingCommand = some 7
    ∧ (after (.commandWrite 7) State.reset).grant = .decided .table
    ∧ (after (.commandWrite 2) (contending false true .matchFirst .table)).pendingCommand = some 7 := by decide +kernel

/-! ## Elements and the match pass -/

/-- R36: width 4 compares the top four bits; R35: ANY takes a BREAK, never an ERROR. -/
theorem test_element_matches :
    elementMatches { press 0x4F with width := 4 } (sym 0 .data 0x41 false 0 0) = true
      ∧ elementMatches { press 0x4F with width := 5 } (sym 0 .data 0x41 false 0 0) = false
      ∧ elementMatches ⟨.any, 0, 0, .plain, .press⟩ (sym 0 .brk 0 false 0 0) = true
      ∧ elementMatches ⟨.any, 0, 0, .plain, .press⟩ (sym 0 .error 0 false 0 0) = false := by decide

/-- P2 of section 12.1. -/
def buttons : Pattern :=
  { plainPattern 0b1000 3 with
    pressOnly := true, swallow := true, tail := 2, level := 2, actionOutput := some 0, actionMode := .set }

/-- Section 12.1: P2 ARMED on CH3, with its candidates, the queue and the symbol that is ready. -/
def buttonPanel (cands : List Candidate) (queue : List Symbol) (x : Symbol) : State :=
  readyWith (armedAt (State.reset.modChan 3 fun c => { c with candidates := cands, queue := queue }) 2 buttons 0
    [press 1, press 3, press 2]) 3 x

/-- Arrivals 0 to 3 of section 12.1. -/
def arrivals : List Symbol :=
  [sym 3 .line 1 false 5000 0, sym 3 .line 1 true 5100 1, sym 3 .line 3 false 5300 2, sym 3 .line 2 false 5400 3]

/-- Section 12.1 before the pass of arrival 0. -/
def firstPress : State := buttonPanel [] [] (sym 3 .line 1 false 5000 0)

/-- Section 12.1 before the pass of arrival 3. -/
def lastPress : State := buttonPanel [⟨2, 2, none, 0⟩] (arrivals.take 3) (sym 3 .line 2 false 5400 3)

theorem passServes_firstPress : PassServes firstPress 3 (sym 3 .line 1 false 5000 0) := by
  unfold PassServes ReadyChannel
  decide +kernel

theorem passServes_lastPress : PassServes lastPress 3 (sym 3 .line 2 false 5400 3) := by
  unfold PassServes ReadyChannel
  decide +kernel

theorem onlyArmed_lastPress : OnlyArmed lastPress 2 ⟨buttons, 0⟩ := by
  unfold OnlyArmed
  decide +kernel

theorem witness_passServesOneChannel : PassServes firstPress 3 (sym 3 .line 1 false 5000 0) := passServes_firstPress

/-- A symbol ready on CH3 with nothing armed, a tail record, a queue of a length, and the lost latch. -/
def unmatched (k : SymbolKind) (release : Bool) (tail : Option Tail) (n : Nat) (lost : Bool) : State :=
  readyWith (State.reset.modChan 3 fun c =>
    { c with tail := tail, queue := List.replicate n (sym 3 .data 4 false 0 0), lost := lost }) 3
    (sym 3 k 4 release 6400 6)

/-- No tail record, one past its expiry, one that a press ends, with room and without; and one that counts down, to 1
and to its end, the queue full or not. -/
theorem witness_unmatchedSymbolIsDelivered :
    ∀ q ∈ [(SymbolKind.error, false, none, 31, false), (.line, true, some ⟨2, some 6399⟩, 0, false),
        (.line, false, some ⟨2, some 6400⟩, 32, false), (.line, true, none, 32, true),
        (.line, true, some ⟨2, some 6400⟩, 32, false), (.line, true, some ⟨1, none⟩, 0, true)],
      let s := unmatched q.1 q.2.1 q.2.2.1 q.2.2.2.1 q.2.2.2.2
      PassServes s 3 (sym 3 q.1 4 q.2.1 6400 6) ∧ (∀ n, (s.slot n).armed? = none) ∧ (s.chan 3).candidates = []
        ∧ (s.chan 3).tail = q.2.2.1 ∧ (s.chan 3).queue.length = q.2.2.2.1 ∧ (s.chan 3).lost = q.2.2.2.2 := by
  unfold PassServes ReadyChannel
  decide +kernel

theorem witness_passCandidatesFollowRules : PassServes firstPress 3 (sym 3 .line 1 false 5000 0)
    ∧ (∃ t, exec .matchPass firstPress = .next t) ∧ ((after .matchPass firstPress).chan 3).candidates = [⟨2, 1, none, 0⟩] :=
  ⟨passServes_firstPress, ⟨_, rfl⟩, by decide +kernel⟩

theorem witness_lonePatternSpawns : PassServes firstPress 3 (sym 3 .line 1 false 5000 0)
    ∧ OnlyArmed firstPress 2 ⟨buttons, 0⟩ ∧ buttons.channels.getLsbD 3 = true
    ∧ elementMatches (firstPress.elementAt 0) (sym 3 .line 1 false 5000 0) = true ∧ 2 ≤ buttons.length
    ∧ (firstPress.chan 3).candidates = [] ∧ (firstPress.chan 3).lockouts = [] ∧ (firstPress.chan 3).tail = none
    ∧ (firstPress.chan 3).queue = [] ∧ 1 ≤ (firstPress.chan 3).holdLimit := by
  unfold OnlyArmed
  exact ⟨passServes_firstPress, by decide +kernel⟩

/-- A pattern of sixteen ANY elements on CH0 with twelve candidates, at positions 1 to 12, and a symbol that is ready. -/
def saturated : State :=
  readyWith (armedAt (State.reset.modChan 0 fun c =>
    { c with candidates := (List.range 12).map fun k => ⟨9, 12 - k, none, k⟩ }) 9 (plainPattern 1 16) 0
    (List.replicate 16 ⟨.any, 0, 0, .plain, .press⟩)) 0 (sym 0 .data 0x41 false 700 20)

/-- The thirteenth is refused: R60. -/
theorem witness_lonePatternSpawns_refused :
    PassServes saturated 0 (sym 0 .data 0x41 false 700 20) ∧ OnlyArmed saturated 9 ⟨plainPattern 1 16, 0⟩
      ∧ (plainPattern 1 16).channels.getLsbD 0 = true ∧ (plainPattern 1 16).pressOnly = false
      ∧ elementMatches (saturated.elementAt 0) (sym 0 .data 0x41 false 700 20) = true
      ∧ (plainPattern 1 16).swallow = false ∧ 12 ≤ (saturated.chan 0).candidates.length
      ∧ (∀ b ∈ (saturated.chan 0).candidates, b.pattern = 9 ∧ b.deadline = none
          ∧ elementMatches (saturated.elementAt (0 + b.position)) (sym 0 .data 0x41 false 700 20) = true
          ∧ b.position + 1 ≠ 16)
      ∧ (saturated.chan 0).lockouts = [] ∧ (saturated.chan 0).tail = none ∧ (saturated.chan 0).queue.length < 32 := by
  unfold PassServes ReadyChannel OnlyArmed
  decide +kernel

/-- A pattern A, A, B on CH0 that does not swallow, gap 300 ms, with LOCKOUT at threshold 1 or without. -/
def doubled (lockout : Bool) : Pattern :=
  { plainPattern 1 3 with gap := 30, lockout := lockout, threshold := 1, lockoutTime := 5, pressOnly := true }

/-- The pattern's candidate at a position on CH0, and a symbol that is ready. -/
def doubledAt (lockout : Bool) (position : Nat) (code : Byte) (release : Bool) : State :=
  readyWith (armedAt (State.reset.modChan 0 fun c => { c with candidates := [⟨7, position, some 1300, 10⟩] }) 7
    (doubled lockout) 0 [press 0x31, press 0x32, press 0x33]) 0 (sym 0 .data code release 1300 11)

theorem witness_loneCandidateFollowsSymbol :
    ∀ q ∈ [(1, (0x32 : Byte), true), (1, 0x32, false), (2, 0x32, false)],
      let s := doubledAt false q.1 q.2.1 q.2.2
      let x := sym 0 .data q.2.1 q.2.2 1300 11
      PassServes s 0 x ∧ OnlyArmed s 7 ⟨doubled false, 0⟩ ∧ (s.chan 0).candidates = [⟨7, q.1, some 1300, 10⟩]
        ∧ elementMatches (s.elementAt 0) x = false ∧ (s.chan 0).lockouts = [] ∧ (s.chan 0).tail = none
        ∧ (s.chan 0).queue = [] ∧ elementMatches (s.elementAt q.1) x = (q.1 == 1 && !q.2.2) := by
  unfold PassServes ReadyChannel OnlyArmed
  decide +kernel

/-- Section 12.1 after arrival 1, under a hold limit, with a symbol of a line ready. -/
def holding (limit : Nat) (line : Byte) (release : Bool) : State :=
  (buttonPanel [⟨2, 1, none, 0⟩] (arrivals.take 2) (sym 3 .line line release 5300 2)).modChan 3 fun c =>
    { c with holdLimit := limit }

/-- The candidate swallows and holds three entries: kept, advanced, cancelled at the limit 2 from either, and dead. -/
theorem witness_loneCandidateFollowsSymbol_swallowing :
    ∀ q ∈ [(3, (3 : Byte), true), (3, 3, false), (2, 3, true), (2, 3, false), (2, 4, false)],
      let s := holding q.1 q.2.1 q.2.2
      let x := sym 3 .line q.2.1 q.2.2 5300 2
      PassServes s 3 x ∧ OnlyArmed s 2 ⟨buttons, 0⟩ ∧ (s.chan 3).candidates = [⟨2, 1, none, 0⟩]
        ∧ elementMatches (s.elementAt 0) x = false ∧ (s.chan 3).lockouts = [] ∧ (s.chan 3).tail = none
        ∧ ((s.chan 3).queue ++ [x]).length = 3 ∧ (∀ e ∈ (s.chan 3).queue ++ [x], 0 ≤ e.arrival)
        ∧ (s.chan 3).holdLimit = q.1 ∧ buttons.swallow = true ∧ buttons.pressOnly = true ∧ buttons.lockout = false
        ∧ elementMatches (s.elementAt (0 + 1)) x = (q.2.1 == 3 && !q.2.2) := by
  unfold PassServes ReadyChannel OnlyArmed
  decide +kernel

theorem witness_loneCandidateLocksOut :
    PassServes (doubledAt true 1 0x33 false) 0 (sym 0 .data 0x33 false 1300 11)
      ∧ OnlyArmed (doubledAt true 1 0x33 false) 7 ⟨doubled true, 0⟩
      ∧ ((doubledAt true 1 0x33 false).chan 0).candidates = [⟨7, 1, some 1300, 10⟩]
      ∧ elementMatches ((doubledAt true 1 0x33 false).elementAt 1) (sym 0 .data 0x33 false 1300 11) = false
      ∧ (doubled true).lockout = true ∧ (doubled true).threshold.val ≤ 1
      ∧ ((doubledAt true 1 0x33 false).chan 0).lockouts = [] ∧ ((doubledAt true 1 0x33 false).chan 0).tail = none
      ∧ ((doubledAt true 1 0x33 false).chan 0).queue.length < 32 := by
  unfold PassServes ReadyChannel OnlyArmed
  decide +kernel

theorem witness_loneCandidateCompletes : PassServes lastPress 3 (sym 3 .line 2 false 5400 3)
    ∧ OnlyArmed lastPress 2 ⟨buttons, 0⟩ ∧ (lastPress.chan 3).candidates = [⟨2, 2, none, 0⟩]
    ∧ elementMatches (lastPress.elementAt 2) (sym 3 .line 2 false 5400 3) = true ∧ 2 + 1 = buttons.length
    ∧ elementMatches (lastPress.elementAt 0) (sym 3 .line 2 false 5400 3) = false
    ∧ (lastPress.chan 3).lockouts = [] ∧ (lastPress.chan 3).tail = none ∧ (lastPress.chan 3).queue.length < 32
    ∧ lastPress.eventQueue.length < 32 :=
  ⟨passServes_lastPress, onlyArmed_lastPress, by decide +kernel⟩

/-- A pattern of length 1 that swallows with tail 2 and is ONE_SHOT. -/
def knock : Pattern := { plainPattern 1 1 with swallow := true, tail := 2, oneShot := true, level := 1 }

/-- A pattern of length 2 that swallows with tail 1 and clears the candidates when it completes. -/
def double : Pattern := { plainPattern 1 2 with swallow := true, tail := 1, clearOnComplete := true, level := 3 }

/-- On CH0 P4 is `knock`, P7 `double` with a candidate that 0x32 completes, and P9 spawns on any symbol. -/
def several : State :=
  let any : Element := ⟨.any, 0, 0, .plain, .press⟩
  let s := armedAt (State.reset.modChan 0 fun c => { c with candidates := [⟨7, 1, none, 10⟩] }) 4 knock 0 [any]
  let s := armedAt (armedAt s 7 double 1 [press 0x31, any]) 9 (plainPattern 1 3) 3 [any, any, any]
  readyWith s 0 (sym 0 .data 0x32 false 700 11)

theorem several_slots : several.slot 4 = .armed ⟨knock, 0⟩ ∧ several.slot 7 = .armed ⟨double, 1⟩
    ∧ several.slot 9 = .armed ⟨plainPattern 1 3, 3⟩
    ∧ ∀ n, (several.slot n).armed? ≠ none → n = 4 ∨ n = 7 ∨ n = 9 := by decide +kernel

/-- The two completions of `several` are those that its patterns and candidates have. -/
theorem several_completes (n : PatternNum) (birth : ArrivalNum) (p : Pattern) :
    (n, birth, p) ∈ [((4 : PatternNum), 11, knock), (7, 10, double)] ↔ ∃ r, several.slot n = .armed r ∧ r.pattern = p
      ∧ ((∃ b ∈ (several.chan 0).candidates, b.pattern = n ∧ b.birth = birth ∧ ¬(p.pressOnly = true ∧ false = true)
            ∧ elementMatches (several.elementAt (r.start + b.position)) (sym 0 .data 0x32 false 700 11) = true
            ∧ b.position + 1 = p.length)
          ∨ p.length = 1 ∧ (several.slot n = .armed r ∧ r.pattern.channels.getLsbD 0 = true
              ∧ ¬(r.pattern.pressOnly = true ∧ false = true)
              ∧ elementMatches (several.elementAt r.start) (sym 0 .data 0x32 false 700 11) = true) ∧ birth = 11) := by
  have candidates : (several.chan 0).candidates = [⟨7, 1, none, 10⟩] := by decide +kernel
  obtain ⟨s4, s7, s9, armed⟩ := several_slots
  rw [candidates]
  constructor
  · intro h
    simp only [List.mem_cons, Prod.mk.injEq, List.not_mem_nil, or_false] at h
    rcases h with ⟨hn, hb, hp⟩ | ⟨hn, hb, hp⟩
    · subst hn hb hp
      exact ⟨_, s4, rfl, .inr ⟨rfl, ⟨s4, by decide +kernel⟩, rfl⟩⟩
    · subst hn hb hp
      exact ⟨_, s7, rfl, .inl ⟨_, List.mem_cons_self, rfl, rfl, by decide +kernel⟩⟩
  · rintro ⟨r, hs, rfl, h⟩
    rcases armed n (by simp [hs, Slot.armed?]) with rfl | rfl | rfl
    · rw [s4] at hs
      cases hs
      rcases h with ⟨b, hb, hn, _⟩ | ⟨_, _, rfl⟩
      · rw [List.mem_singleton] at hb
        subst hb
        exact absurd hn (by decide)
      · exact List.mem_cons_self
    · rw [s7] at hs
      cases hs
      rcases h with ⟨b, hb, _, rfl, _⟩ | ⟨h1, _⟩
      · rw [List.mem_singleton] at hb
        subst hb
        exact List.mem_cons_of_mem _ List.mem_cons_self
      · exact absurd h1 (by decide)
    · rw [s9] at hs
      cases hs
      rcases h with ⟨b, hb, hn, _⟩ | ⟨h1, _⟩
      · rw [List.mem_singleton] at hb
        subst hb
        exact absurd hn (by decide)
      · exact absurd h1 (by decide)

/-- With `several_completes`, what the second part of the statement asks for, `spawned` being P9 alone. -/
theorem witness_loneCandidateCompletes_several :
    PassServes several 0 (sym 0 .data 0x32 false 700 11) ∧ (several.chan 0).lockouts = []
      ∧ (several.chan 0).tail = none ∧ (several.chan 0).queue.length < 32 ∧ several.eventQueue.length + 2 ≤ 32
      ∧ (∀ b ∈ (several.chan 0).candidates, several.slot b.pattern = .armed ⟨double, 1⟩ ∧ 1 ≤ b.position
          ∧ b.deadline = none
          ∧ elementMatches (several.elementAt (1 + b.position)) (sym 0 .data 0x32 false 700 11) = true)
      ∧ (several.chan 0).candidates.length = 1
      ∧ (∀ n, ∀ r ∈ (several.slot n).armed?,
          elementMatches (several.elementAt r.start) (sym 0 .data 0x32 false 700 11) = true →
          r.pattern.length ≠ 1 → n = 9)
      ∧ (several.chan 0).candidates.length + [(9 : PatternNum)].length ≤ 12
      ∧ [((4 : PatternNum), 11, knock), (7, 10, double)].Pairwise (fun a b => a.1 < b.1)
      ∧ double.swallow = true := by
  unfold PassServes ReadyChannel
  decide +kernel

/-- R61, R62, R63, R64: both MATCH events in pattern order, P4 disarmed, no candidate left, and the queue cut at the
earlier birth. -/
theorem witness_loneCandidateCompletes_several_effect :
    let t := after .matchPass several
    t.eventQueue.map (fun e => (e.pattern, e.level)) = [(some 4, 1), (some 7, 3)] ∧ (t.slot 4).armed? = none
      ∧ (t.chan 0).candidates = [] ∧ (t.chan 0).queue = [] ∧ (t.chan 0).tail = some ⟨2, some 1700⟩ := by decide +kernel

/-- P30 and P31 of section 12.4, before the pass of arrival 74: hold limit 4, HOLD_CANCEL level 1. -/
def holdLimited : State :=
  let p30 : Pattern := { plainPattern 0b0010 6 with pressOnly := true, swallow := true }
  let p31 : Pattern := { plainPattern 0b0010 3 with pressOnly := true, swallow := true, tail := 1 }
  let s := armedAt State.reset 30 p30 0 [press 0x41, press 0x42, press 0x43, press 0x45, press 0x46, press 0x47]
  let s := armedAt s 31 p31 6 [press 0x42, press 0x43, press 0x44]
  let s := s.modChan 1 fun c =>
    { c with
      candidates := [⟨30, 2, none, 70⟩, ⟨31, 1, none, 72⟩], holdLimit := 4
      queue := [sym 1 .data 0x41 false 0 70, sym 1 .data 0x41 true 0 71, sym 1 .data 0x42 false 0 72,
        sym 1 .data 0x42 true 0 73] }
  readyWith { s with eventLevels := s.eventLevels.set 1 (some 1) } 1 (sym 1 .data 0x43 false 900 74)

/-- Section 12.4, arrival 74. -/
theorem test_pass_hold_limit :
    let t := after .matchPass holdLimited
    (t.chan 1).candidates = [⟨31, 2, none, 72⟩] ∧ (t.chan 1).queue.map (·.arrival) = [70, 71, 72, 73, 74]
      ∧ t.heldCount 1 = 3 ∧ t.eventQueue = [⟨0, .holdCancel, 1, some 1, some 30, none, 900⟩] := by decide +kernel

/-- P40 of section 12.5 before order 4: L5's second press is ready on CH3, and CH0 holds a candidate of P40. -/
def gesture : State :=
  let p40 : Pattern :=
    { plainPattern 0b1001 2 with
      pressOnly := true, swallow := true, tail := 1, oneShot := true, level := 3, actionOutput := some 2
      actionMode := .pulse }
  let s := armedAt State.reset 40 p40 0 [press 5, press 5]
  let s := s.modChan 0 fun c =>
    { c with mode := .matching, candidates := [⟨40, 1, none, 300⟩], queue := [sym 0 .data 5 false 0 300] }
  let s := s.modChan 3 fun c =>
    { c with
      candidates := [⟨40, 1, none, 79⟩], queue := [sym 3 .line 5 false 0 79, sym 3 .line 5 true 0 80] }
  readyWith { s with wakeFloor := 3 } 3 (sym 3 .line 5 false 500 81)

/-- Section 12.5, order 4. -/
theorem test_pass_one_shot_on_two_channels :
    let t := after .matchPass gesture
    (t.slot 40).armed? = none ∧ (t.chan 0).candidates = [] ∧ t.heldCount 0 = 0 ∧ (t.chan 0).queue.length = 1
      ∧ (t.chan 3).queue = [] ∧ (t.chan 3).tail = some ⟨1, some 1500⟩ ∧ t.intLine = true ∧ t.wakeLine = true
      ∧ t.output 2 = ⟨.high, some 600, 10⟩ := by decide +kernel

/-! ## Deadlines and the time base -/

/-- CH0 with a candidate, a lockout record and a tail record that all end at 100, and a symbol ready at 101, its pass
granted. -/
def expiringGranted : State :=
  readyWith (armedAt (State.reset.modChan 0 fun c =>
    { c with
      candidates := [⟨7, 1, some 100, 10⟩], lockouts := [⟨8, 100⟩], tail := some ⟨1, some 100⟩ }) 7 (doubled false) 0
    [press 0x31, press 0x32, press 0x33]) 0 (sym 0 .data 0x32 false 101 11)

/-- The same before that grant. -/
def expiring : State := { expiringGranted with grant := .held .table }

theorem witness_expiryOrderIsIrrelevant : Settled expiring
    ∧ PassServes { expiring with grant := .decided .matchUnit } 0 (sym 0 .data 0x32 false 101 11)
    ∧ (∃ t, exec (.gapDeadlineExpiry 0 7 1) expiring = .next t) ∧ (∃ t, exec (.lockoutExpiry 0 8) expiring = .next t)
    ∧ (∃ t, exec (.tailExpiry 0) expiring = .next t)
    ∧ ((after (.gapDeadlineExpiry 0 7 1) expiring).chan 0).candidates = [] := by
  refine ⟨by decide +kernel, ?_, ⟨_, rfl⟩, ⟨_, rfl⟩, ⟨_, rfl⟩, by decide +kernel⟩
  unfold PassServes ReadyChannel
  decide +kernel

/-- The same at a time base, no symbol ready. -/
def expiringAt (t : Nat) : State := { expiring.modChan 0 (fun c => { c with ready := none }) with timeBase := t }

theorem witness_contextDeadlinesExpire :
    ((expiringAt 101).chan 0).candidates = [] ++ (⟨7, 1, some 100, 10⟩ : Candidate) :: []
      ∧ ((expiringAt 101).chan 0).lockouts = [] ++ (⟨8, 100⟩ : Lockout) :: []
      ∧ ((expiringAt 101).chan 0).tail = some ⟨1, some 100⟩
      ∧ Settled (expiringAt 101) ∧ Settled (expiringAt 100)
      ∧ (100 < (expiringAt 101).timeBase ∧ ¬WaitsBy (expiringAt 101) 0 100)
      ∧ ¬(100 < (expiringAt 100).timeBase ∧ ¬WaitsBy (expiringAt 100) 0 100) := by
  unfold WaitsBy
  decide +kernel

/-- R73, R78, R81, R85: a deadline of 100 is not past at 100, and is at 101. -/
theorem test_context_expiries :
    ((after (.gapDeadlineExpiry 0 7 1) (expiringAt 101)).chan 0).candidates = []
      ∧ ((after (.lockoutExpiry 0 8) (expiringAt 101)).chan 0).lockouts = []
      ∧ ((after (.tailExpiry 0) (expiringAt 101)).chan 0).tail = none
      ∧ ((after (.gapDeadlineExpiry 0 7 1) (expiringAt 100)).chan 0).candidates ≠ []
      ∧ ((after (.lockoutExpiry 0 8) (expiringAt 100)).chan 0).lockouts ≠ []
      ∧ ((after (.tailExpiry 0) (expiringAt 100)).chan 0).tail ≠ none := by decide +kernel

/-- OUT1 pulsing until 100. -/
def pulsing (t : Nat) : State :=
  { State.reset.modOutput 1 (fun x => { x with level := .high, deadline := some 100 }) with timeBase := t }

theorem witness_pulsesEndAndTimeAdvances :
    Settled (pulsing 100) ∧ Settled (pulsing 99) ∧ Settled State.reset
      ∧ ((pulsing 100).output 1).deadline = some 100 ∧ 100 ≤ (pulsing 100).timeBase ∧ (pulsing 99).timeBase < 100
      ∧ (pulsing 100).inReset = false ∧ State.reset.inReset = false
      ∧ (∀ n, ∀ p ∈ (State.reset.line n).change, State.reset.timeBase < p.time + State.reset.debounce.toNat)
      ∧ ∀ o, ∀ d ∈ (State.reset.output o).deadline, State.reset.timeBase < d := by decide +kernel

theorem test_pulse_expiry : (after (.pulseExpiry 1) (pulsing 100)).output 1 = ⟨.low, none, 10⟩
    ∧ (after (.pulseExpiry 1) (pulsing 99)).output 1 = ⟨.high, some 100, 10⟩ := by decide +kernel

theorem test_time_base_advance : (after .timeBaseAdvance (pulsing 99)).timeBase = 100
    ∧ ((after .timeBaseAdvance (pulsing 99)).output 1).level = .high
    ∧ (after .timeBaseAdvance held).timeBase = 0 := by decide +kernel

/-! ## Delivery and the take latch -/

/-- CH3 selected, P2's candidate born at 2, and a queue; the symbol that is ready waits for a grant. -/
def selected (queue : List Symbol) : State :=
  { buttonPanel [⟨2, 1, none, 2⟩] queue (sym 3 .line 3 false 6000 3) with chanSel := 3, grant := .held .table }

theorem witness_takeMovesFreeHead :
    (∀ n ∈ [1, 2, 4], Settled (selected (arrivals.drop n))) ∧ (selected []).inReset = false
      ∧ ((selected []).chan (selected []).chanSel).queue = []
      ∧ ((selected (arrivals.drop 1)).chan 3).queue = sym 3 .line 1 true 5100 1 :: arrivals.drop 2
      ∧ (∀ c ∈ ((selected (arrivals.drop 1)).chan 3).candidates, (selected (arrivals.drop 1)).swallowing c = true → 1 < c.birth)
      ∧ ((selected (arrivals.drop 2)).chan 3).queue = sym 3 .line 3 false 5300 2 :: arrivals.drop 3
      ∧ (∃ c ∈ ((selected (arrivals.drop 2)).chan 3).candidates,
          (selected (arrivals.drop 2)).swallowing c = true ∧ c.birth ≤ 2) := by decide +kernel

theorem test_take : ((after .take (selected (arrivals.drop 1))).chan 3).latch = some (sym 3 .line 1 true 5100 1)
    ∧ ((after .take (selected (arrivals.drop 2))).chan 3).latch = none
    ∧ ((after .take (selected (arrivals.drop 2))).chan 3).queue.length = 2 := by decide +kernel

theorem witness_flushEmptiesQueue : (selected arrivals).inReset = false
    ∧ Settled (selected arrivals) := by decide +kernel

theorem test_flush : ((after .flush (selected arrivals)).chan 3).queue = []
    ∧ ((after .flush (selected arrivals)).chan 3).candidates = [⟨2, 1, none, 2⟩] := by decide +kernel

/-- Section 12.4 with the queue at 70 to 73, CONFIG_ADDR at HOLD_LIMIT of CH1. -/
def holdLimitPointed : State :=
  { holdLimited.modChan 1 (fun c => { c with ready := none }) with
    configAddr := 0x0B, timeBase := 950, grant := .held .matchUnit }

theorem witness_holdLimitIsEnforced :
    holdLimitPointed.inReset = false ∧ Settled holdLimitPointed
      ∧ holdLimitPointed.configAddr.val = 0x0A + (1 : Channel).val
      ∧ (heldEntries holdLimitPointed 1).length = (4 : Byte).toNat ∧ (0 : Byte).toNat = 0 ∧ 32 < (33 : Byte).toNat
      ∧ 1 ≤ (1 : Byte).toNat ∧ (32 : Byte).toNat ≤ 32 := by decide +kernel

/-- Section 12.4 with a release symbol in place of arrival 74: five entries held under a limit of 4. -/
def holdLimitedRelease : State := readyWith holdLimited 1 (sym 1 .data 0x43 true 900 74)

theorem witness_holdLimitIsEnforced_inPass : PassServes holdLimitedRelease 1 (sym 1 .data 0x43 true 900 74)
    ∧ (∀ n, ∀ r ∈ (holdLimitedRelease.slot n).record?, r.pattern.pressOnly = true)
    ∧ (∀ b ∈ (holdLimitedRelease.chan 1).candidates,
        (holdLimitedRelease.slot b.pattern).record? ≠ none ∧ b.deadline = none)
    ∧ (holdLimitedRelease.chan 1).tail = none ∧ (holdLimitedRelease.chan 1).queue.length < 32
    ∧ ((after .matchPass holdLimitedRelease).chan 1).candidates = [⟨31, 1, none, 72⟩] := by
  unfold PassServes ReadyChannel
  decide +kernel

/-- Section 12.4: the limit written down to 2 cancels P30, stamped with the time base at the write. -/
theorem test_hold_limit_write :
    let t := after (.holdLimitWrite 2) holdLimitPointed
    (t.chan 1).candidates = [⟨31, 1, none, 72⟩] ∧ t.heldCount 1 = 2
      ∧ t.eventQueue = [⟨0, .holdCancel, 1, some 1, some 30, none, 950⟩]
      ∧ ((after (.holdLimitWrite 33) holdLimitPointed).chan 1).holdLimit = 4 := by decide +kernel

/-! ## Events -/

/-- An event queue of levels, oldest first. -/
def events (levels : List EventLevel) : State := { State.reset with eventQueue := levels.map (eventOf 0) }

/-- A full event queue of level 1 with one younger event of level 2 in it. -/
def fullEvents : State := events (List.replicate 31 1 ++ [2])

theorem witness_eventsAreCreated :
    State.reset.eventLevels[(6 : Fin 7)] = none ∧ ({ State.reset with eventLevels := State.reset.eventLevels.set 0 (some 3) } : State).eventLevels[(0 : Fin 7)] = some 3
      ∧ (events (List.replicate 31 1)).eventQueue.length < 32
      ∧ (32 ≤ fullEvents.eventQueue.length ∧ ∀ q ∈ fullEvents.eventQueue, (1 : EventLevel) ≤ q.level)
      ∧ fullEvents.eventQueue = List.replicate 30 (eventOf 0 1) ++ eventOf 0 1 :: [eventOf 0 2]
      ∧ (eventOf 0 1).level < 2 ∧ (∀ q ∈ List.replicate 30 (eventOf 0 1), (eventOf 0 1).level ≤ q.level)
      ∧ ∀ q ∈ [eventOf 0 2], (eventOf 0 1).level < q.level := by decide +kernel

/-- R125: the youngest event of the lowest level goes, and its level's flag is set. -/
theorem test_event_eviction :
    let t := fullEvents.createEvent 3 ⟨.matched, none, none, none, 0⟩
    t.eventQueue.map (·.level) = List.replicate 30 1 ++ [2, 3] ∧ t.lostMask = #v[false, true, false, false]
      ∧ t.intLine = true := by decide +kernel

theorem witness_nextPresentsBest :
    State.reset.inReset = false ∧ Settled State.reset ∧ Settled (events [1, 3, 3, 2]) ∧ State.reset.eventQueue = []
      ∧ (events [1, 3, 3, 2]).eventQueue = [eventOf 0 1] ++ eventOf 0 3 :: [eventOf 0 3, eventOf 0 2]
      ∧ (∀ q ∈ [eventOf 0 1], q.level < (eventOf 0 3).level)
      ∧ ∀ q ∈ [eventOf 0 3, eventOf 0 2], q.level ≤ (eventOf 0 3).level := by decide +kernel

theorem test_next : (after .next (events [1, 3, 2])).presented = some (eventOf 0 3)
    ∧ (after .next (events [1, 3, 2])).eventQueue = [eventOf 0 1, eventOf 0 2]
    ∧ (after .next { State.reset with presented := some (eventOf 0 3) }).presented = none := by decide +kernel

theorem witness_clearLostClearsNamed : State.reset.inReset = false ∧ Settled State.reset := by decide

theorem test_clear_lost : (after (.clearLost 0b0101) { State.reset with lostMask := #v[true, true, true, true] }).lostMask
    = #v[false, true, false, true] := by decide +kernel

theorem witness_outputsWriteDrivesNamed : (pulsing 99).inReset = false ∧ Settled (pulsing 99) := by decide +kernel

/-- R144: OUT1's pulse ends at a write that names it; OUT0 is not named. -/
theorem test_outputs_write : (after (.outputsWrite 0x23) (pulsing 99)).output 1 = ⟨.high, none, 10⟩
    ∧ ((after (.outputsWrite 0x23) (pulsing 99)).output 0).level = .low := by decide +kernel

/-! ## Table commands -/

/-- P2 of section 12.1 in the staging record, slot 0 ARMED with a run of 4 at E0, DEFINE of a slot granted. -/
def defining (operand : Byte) : State :=
  granted
    { armedAt State.reset 0 (plainPattern 1 4) 0 (List.replicate 4 (press 9)) with
      staging := encodeRecord buttons 0 [press 1, press 3, press 2] } 1 operand

theorem witness_defineStoresPattern :
    CommandGranted (defining 63) 1 ∧ (defining 63).compacting = false ∧ (defining 63).operand.toNat = (63 : PatternNum).val
      ∧ ((defining 63).slot 63).armed? = none
      ∧ stagedPattern? (defining 63).staging = some (buttons, [press 1, press 3, press 2])
      ∧ (4 + buttons.length ≤ 512 ∧ ∀ m, m ≠ 63 → ∀ r ∈ ((defining 63).slot m).record?,
          ∀ k < buttons.length, ¬(r.start ≤ 4 + k ∧ 4 + k < r.start + r.pattern.length))
      ∧ ∀ b < 4, ∃ r ∈ ((defining 63).slot 0).record?, r.start ≤ b + 0 ∧ b + 0 < r.start + r.pattern.length := by
  unfold CommandGranted
  decide +kernel

/-- R40, R151: first fit at E4, behind P0's run. -/
theorem test_define : ((after .define (defining 63)).slot 63).record? = some ⟨buttons, 4⟩
    ∧ (after .define (defining 63)).elementAt 5 = press 3 ∧ (after .define (defining 63)).result = .ok
    ∧ (after .define (defining 63)).pendingCommand = none := by decide +kernel

/-- A pool filled by 32 runs of 16, and P2 of section 12.1 staged for slot 63. -/
def crowded : State :=
  granted
    { State.reset with
      slots := Vector.ofFn fun n => if n.val < 32 then .disarmed ⟨plainPattern 1 16, 16 * n.val⟩ else .free
      staging := encodeRecord buttons 0 [press 1, press 3, press 2] } 1 63

theorem witness_defineRefuses_noSpace : CommandGranted crowded 1 ∧ (crowded.slot 63).armed? = none
    ∧ stagedPattern? crowded.staging = some (buttons, [press 1, press 3, press 2])
    ∧ ∀ b, b + buttons.length ≤ 512 → ∃ m, m ≠ 63 ∧ ∃ r, (crowded.slot m).record? = some r
        ∧ ∃ k < buttons.length, r.start ≤ b + k ∧ b + k < r.start + r.pattern.length := by
  refine ⟨by unfold CommandGranted; decide +kernel, by decide +kernel, by decide +kernel, fun b hb => ?_⟩
  have hb : b + 3 ≤ 512 := hb
  have hlt : b / 16 < 32 := by omega
  refine ⟨⟨b / 16, by omega⟩, Fin.ne_of_val_ne (by show b / 16 ≠ 63; omega),
    ⟨plainPattern 1 16, 16 * (b / 16)⟩, ?_, 0,
    by decide, by show 16 * (b / 16) ≤ b + 0; omega, by show b + 0 < 16 * (b / 16) + 16; omega⟩
  show Slot.record? ((Vector.ofFn _)[(⟨b / 16, _⟩ : PatternNum)]) = _
  simp [hlt, Slot.record?]

theorem witness_defineRefuses :
    (CommandGranted { defining 5 with compacting := true } 1 ∧ { defining 5 with compacting := true }.compacting = true)
      ∧ (CommandGranted (defining 64) 1 ∧ (defining 64).compacting = false ∧ 64 ≤ (defining 64).operand.toNat)
      ∧ (CommandGranted (defining 0) 1 ∧ (defining 0).operand.toNat = (0 : PatternNum).val ∧ ((defining 0).slot 0).armed? ≠ none)
      ∧ CommandGranted (granted State.reset 1 63) 1 ∧ ((granted State.reset 1 63).slot 63).armed? = none
      ∧ stagedPattern? (granted State.reset 1 63).staging = none := by
  unfold CommandGranted
  decide +kernel

/-- R151: the order of the checks, NO_SPACE last. -/
theorem test_define_refused : (after .define { defining 64 with compacting := true }).result = .busy
    ∧ (after .define (defining 64)).result = .badSlot ∧ (after .define (defining 0)).result = .badState
    ∧ (after .define (granted State.reset 1 63)).result = .badRecord := by decide +kernel

/-- A slot in each of its states, with a command granted for it. -/
def slotWith (sl : Slot) (code : Byte) : State := granted (State.reset.setSlot 5 sl) code 5

theorem witness_slotCommands (code : Byte) (h : code ∈ [(2 : Byte), 3, 4]) (sl : Slot)
    (_slots : sl ∈ [.free, .disarmed ⟨buttons, 0⟩, .armed ⟨buttons, 0⟩]) :
    CommandGranted (slotWith sl code) code ∧ (slotWith sl code).operand.toNat = (5 : PatternNum).val
      ∧ (slotWith sl code).compacting = false ∧ (slotWith sl code).slot 5 = sl := by
  unfold CommandGranted
  simp only [List.mem_cons, List.not_mem_nil, or_false] at h _slots
  obtain rfl | rfl | rfl := h <;> obtain rfl | rfl | rfl := _slots <;> decide +kernel

theorem test_arm_and_delete : (after .arm (slotWith (.disarmed ⟨buttons, 0⟩) 2)).slot 5 = .armed ⟨buttons, 0⟩
    ∧ (after .arm (slotWith .free 2)).result = .badState
    ∧ (after .delete (slotWith (.disarmed ⟨buttons, 0⟩) 4)).slot 5 = .free
    ∧ (after .delete (slotWith (.armed ⟨buttons, 0⟩) 4)).result = .badState
    ∧ (after .delete (slotWith .free 4)).result = .ok := by decide +kernel

/-- R23: the candidates and lockout records of the pattern go with it. -/
theorem test_disarm :
    let t := after .disarm ((slotWith (.armed ⟨buttons, 0⟩) 3).modChan 3 fun c =>
      { c with candidates := [⟨5, 1, none, 0⟩, ⟨6, 1, none, 1⟩], lockouts := [⟨5, 9⟩, ⟨7, 9⟩] })
    t.slot 5 = .disarmed ⟨buttons, 0⟩ ∧ (t.chan 3).candidates = [⟨6, 1, none, 1⟩] ∧ (t.chan 3).lockouts = [⟨7, 9⟩]
      ∧ t.lastCommand = some 3 ∧ t.grant = .held .table := by decide +kernel

/-- Each command code and operand, on slot 5 in each of its states, a compaction in flight or not. -/
theorem witness_otherTableCommands (sl : Slot) (code operand : Byte) :
    CommandGranted (granted (slotWith sl 5) code operand) code
      ∧ (granted (slotWith sl 5) code operand).operand = operand ∧ (granted (slotWith sl 5) code operand).slot 5 = sl
      ∧ (granted (slotWith sl 5) code operand).compacting = false
      ∧ CommandGranted { granted State.reset code operand with compacting := true } code :=
  ⟨⟨rfl, rfl⟩, rfl, rfl, rfl, rfl, rfl⟩

/-- R201: channels and level, length, swallow with tail and PRESS_ONLY, output; the start in bytes 8 and 9; the first
triple: code 1, SYMBOL with extension NONE and release PRESS, width 8. -/
theorem test_read_back :
    let t := after .readBack (granted (armedAt State.reset 5 buttons 258 [press 1, press 3, press 2]) 5 5)
    t.staging[0] = 0x28 ∧ t.staging[1] = 3 ∧ t.staging[4] = 0x0B ∧ t.staging[5] = 0x10 ∧ t.staging[8] = 2
      ∧ t.staging[9] = 1 ∧ t.staging[10] = 1 ∧ t.staging[11] = 0 ∧ t.staging[12] = 8 ∧ t.staging[19] = 0 := by
  decide +kernel

theorem test_clear_lockout :
    ((after .clearLockout ((granted State.reset 6 8).modChan 2 fun c => { c with lockouts := [⟨7, 9⟩, ⟨8, 9⟩] })).chan 2).lockouts
      = [⟨7, 9⟩] := by decide +kernel

theorem test_compact_and_bad_command : (after .compact (granted State.reset 7 0)).result = .started
    ∧ (after .compact (granted State.reset 7 0)).compacting = true
    ∧ (after .badCommand (granted State.reset 9 0)).result = .badCommand
    ∧ (after .badCommand (granted State.reset 9 0)).lastCommand = some 9 := by decide +kernel

theorem witness_runtimeResetKeepsProgramming : CommandGranted (granted lastPress 8 0) 8 := by
  unfold CommandGranted
  decide +kernel

theorem test_runtime_reset :
    let t := after .runtimeReset (granted lastPress 8 0)
    (t.chan 3).queue = [] ∧ (t.chan 3).ready = none ∧ (t.chan 3).mode = .matching ∧ (t.chan 3).arrivalCounter = 0
      ∧ t.slot 2 = .armed ⟨buttons, 0⟩ ∧ t.timeBase = 5400 ∧ t.result = .ok := by decide +kernel

/-- A pattern with every option set, of the greatest length. -/
def everyOption : Pattern :=
  { plainPattern 15 16 with
    level := 3, tag := 0xA5, gap := 255, pressOnly := true, swallow := true, tail := 7, lockout := true, threshold := 15
    lockoutTime := 255, oneShot := true, clearOnComplete := true, actionOutput := some 3, actionMode := .pulse }

theorem witness_readBackRoundTrip : HeaderValid everyOption
    ∧ (List.replicate 16 (press 0x41)).length = everyOption.length
    ∧ (∀ e ∈ List.replicate 16 (press 0x41), ElementValid everyOption e)
    ∧ HeaderValid (plainPattern 1 1) ∧ ElementValid (plainPattern 1 1) ⟨.any, 0xFF, 15, .either, .either⟩
    ∧ 511 < 512 := by
  unfold HeaderValid ElementValid
  decide

/-- The staging window's last address, a command pending or not. -/
def staging (a : Fin 58) (busy : Bool) : State :=
  { State.reset with stageAddr := a, pendingCommand := if busy then some 1 else none }

theorem witness_stagingWindow : (staging 57 false).inReset = false ∧ Settled (staging 57 false)
    ∧ Settled (staging 57 true) ∧ (staging 57 false).pendingCommand = none
    ∧ (staging 57 true).pendingCommand ≠ none ∧ (57 : Fin 58).val = (57 : Byte).toNat ∧ 58 ≤ (58 : Byte).toNat := by
  decide +kernel

/-- R147: bytes 8 and 9 keep what they hold; the address goes from 57 to 0. -/
theorem test_stage_data_write : (after (.stageDataWrite 0xAA) (staging 9 false)).staging[9] = 0
    ∧ (after (.stageDataWrite 0xAA) (staging 57 false)).staging[57] = 0xAA
    ∧ (after (.stageDataWrite 0xAA) (staging 57 false)).stageAddr = 0
    ∧ (after (.stageDataWrite 0xAA) (staging 57 true)).staging[57] = 0 := by decide +kernel

theorem test_stage_addr_and_operand : (after (.stageAddrWrite 57) State.reset).stageAddr = 57
    ∧ (after (.stageAddrWrite 58) State.reset).stageAddr = 0 ∧ (after (.operandWrite 255) State.reset).operand = 255
    ∧ (after (.operandWrite 255) (staging 0 true)).operand = 0
    ∧ (after .stageDataRead (staging 57 false)).stageAddr = 0 ∧ (after .stageDataRead (staging 57 true)).stageAddr = 57 := by
  decide +kernel

/-! ## Compaction -/

/-- Section 12.6 at a grant of a step: P0 at E0–E3, P5 of length 8 at an address, P2 of length 10 ARMED at E20. -/
def compacting (p5 : Nat) : State :=
  let s := State.reset.placeRun 0 (.disarmed ⟨plainPattern 2 4, 0⟩) 0 (List.replicate 4 (press 0))
  let s := s.placeRun 5 (.disarmed ⟨plainPattern 2 8, p5⟩) p5 (List.replicate 8 (press 5))
  let s := armedAt s 2 (plainPattern 2 10) 20 ((List.range 10).map fun k => press (byteOf k))
  { s with compacting := true, grant := .decided .table, timeBase := 77 }

/-- `PoolConsistent` in a form that can be decided. -/
theorem poolConsistent_of {s : State}
    (valid : ∀ n, ∀ r ∈ (s.slot n).record?, r.pattern.valid = true ∧ r.start + r.pattern.length ≤ 512)
    (disjoint : ∀ n m, n ≠ m → ∀ r ∈ (s.slot n).record?, ∀ q ∈ (s.slot m).record?,
      r.start + r.pattern.length ≤ q.start ∨ q.start + q.pattern.length ≤ r.start) : PoolConsistent s :=
  ⟨valid, fun n m r q h hr hq => disjoint n m h r hr q hq⟩

theorem witness_compactionMovesLowestRun : StepGranted (compacting 10) ∧ PoolConsistent (compacting 10)
    ∧ ((compacting 10).slot 5).record? = some ⟨plainPattern 2 8, 10⟩ ∧ 4 < 10 ∧ (compacting 10).allocated 4 = false
    ∧ (∀ b < 4, (compacting 10).allocated b = true)
    ∧ ∀ m, m ≠ 5 → ∀ q ∈ ((compacting 10).slot m).record?, 4 < q.start → 10 < q.start :=
  ⟨by unfold StepGranted; decide +kernel, poolConsistent_of (by decide +kernel) (by decide +kernel), by decide +kernel⟩

/-- The move with which the compaction ends. -/
theorem witness_compactionMovesLowestRun_last : StepGranted (compacting 4) ∧ PoolConsistent (compacting 4)
    ∧ ((compacting 4).slot 2).record? = some ⟨plainPattern 2 10, 20⟩ ∧ 12 < 20 ∧ (compacting 4).allocated 12 = false
    ∧ (∀ b < 12, (compacting 4).allocated b = true)
    ∧ ∀ m, m ≠ 2 → ∀ q ∈ ((compacting 4).slot m).record?, 12 < q.start → 20 < q.start :=
  ⟨by unfold StepGranted; decide +kernel, poolConsistent_of (by decide +kernel) (by decide +kernel), by decide +kernel⟩

theorem witness_compactionKeepsPatterns : PoolConsistent (compacting 4)
    ∧ (∃ t, exec .compactionMove (compacting 4) = .next t)
    ∧ (after .compactionMove (compacting 4)).slot 2 ≠ (compacting 4).slot 2 :=
  ⟨poolConsistent_of (by decide +kernel) (by decide +kernel), ⟨_, rfl⟩, by decide +kernel⟩

/-- Section 12.6: grant 2 moves P5 to E4 and goes on; grant 4 moves P2 to E12 over its own run and ends. -/
theorem test_compaction_move :
    ((after .compactionMove (compacting 10)).slot 5).record? = some ⟨plainPattern 2 8, 4⟩
      ∧ (after .compactionMove (compacting 10)).compacting = true
      ∧ (after .compactionMove (compacting 4)).slot 2 = .armed ⟨plainPattern 2 10, 12⟩
      ∧ (after .compactionMove (compacting 4)).elementAt 16 = press 4
      ∧ (after .compactionMove (compacting 4)).compacting = false := by decide +kernel

/-- A step granted when no run is out of place, COMPACT_DONE at level 2. -/
def compacted : State :=
  { State.reset.placeRun 0 (.disarmed ⟨plainPattern 2 4, 0⟩) 0 (List.replicate 4 (press 0)) with
    compacting := true, grant := .decided .table, timeBase := 77, eventLevels := State.reset.eventLevels.set 6 (some 2) }

theorem witness_compactionEnds : StepGranted compacted ∧ PoolConsistent compacted
    ∧ ∀ n, ∀ r ∈ (compacted.slot n).record?, ∀ b < r.start, compacted.allocated b = true :=
  ⟨by unfold StepGranted; decide +kernel, poolConsistent_of (by decide +kernel) (by decide +kernel), by decide +kernel⟩

theorem test_compaction_end : (after .compactionEnd compacted).compacting = false
    ∧ (after .compactionEnd compacted).eventQueue = [⟨0, .compactDone, 2, none, none, none, 77⟩] := by decide +kernel

/-! ## The configuration space and the address registers -/

theorem witness_addressRegisters : State.reset.inReset = false ∧ Settled State.reset
    ∧ (3 : Channel).val = (3 : Byte).toNat
    ∧ (63 : Fin 64).val = (63 : Byte).toNat ∧ 4 ≤ (4 : Byte).toNat ∧ 64 ≤ (64 : Byte).toNat
    ∧ ({ State.reset with classSel := 2 }).classSel.val = (2 : SerialChannel).val
    ∧ ({ State.reset with classSel := 3 }).classSel = 3 := by decide

theorem test_address_writes : (after (.chanSelWrite 3) State.reset).chanSel = 3
    ∧ (after (.chanSelWrite 4) State.reset).chanSel = 0 ∧ (after (.configAddrWrite 64) State.reset).configAddr = 0
    ∧ (after (.configAddrWrite 63) State.reset).configAddr = 63 ∧ (after (.classSelWrite 3) State.reset).classSel = 3
    ∧ (after (.classAddrWrite 255) State.reset).classAddr = 255 := by decide +kernel

/-- R186, R194: MODE of CH0 reads 0; HOLD_LIMIT 16; the address goes from 63 to 0. -/
theorem test_config_data_read : (after .configDataRead (pointed 0x0A)).dataOut = 16
    ∧ (after .configDataRead (pointed 0x05)).dataOut = 3 ∧ (after .configDataRead (pointed 63)).configAddr = 0
    ∧ (after .classDataRead { State.reset with classAddr := 255 }).classAddr = 0 := by decide +kernel

theorem witness_classDataWrites (v : Byte) (k : ByteClass)
    (h : (v, k) ∈ [((0 : Byte), ByteClass.plain), (1, .leadA), (2, .leadB), (3, .release), (4, .drop)]) :
    ({ State.reset with classSel := 2 }).inReset = false ∧ Settled { State.reset with classSel := 2 }
      ∧ ({ State.reset with classSel := 2 }).classSel.val = (2 : SerialChannel).val
      ∧ ({ State.reset with classSel := 3 }).classSel = 3 ∧ 5 ≤ (5 : Byte).toNat
      ∧ (v, k) ∈ [((0 : Byte), ByteClass.plain), (1, .leadA), (2, .leadB), (3, .release), (4, .drop)] :=
  ⟨rfl, by decide, rfl, rfl, by decide, h⟩

theorem test_class_data_write :
    let s := { State.reset with classSel := 1, classAddr := 0xE0 }
    ((after (.classDataWrite 2) s).ser 1).classMap[0xE0] = .leadB ∧ (after (.classDataWrite 2) s).classAddr = 0xE1
      ∧ ((after (.classDataWrite 5) s).ser 1).classMap[0xE0] = .plain := by decide +kernel

/-- CONFIG_ADDR at MODE of CH0, CH0 in MATCH with a symbol ready, and CH2 ready too or a command pending or neither; the
memory is held. -/
def leavingMatch (other table : Bool) : State :=
  let s := readyWith State.reset 0 (sym 0 .data 0x41 false 0 0)
  let s := s.modChan 2 fun c =>
    { c with mode := .matching, ready := if other then some (sym 2 .data 0x41 false 0 0) else none }
  { s with pendingCommand := (if table then some 7 else none), grant := .held .table }

theorem witness_modeToOff :
    (leavingMatch true false).inReset = false ∧ Settled (leavingMatch true false)
      ∧ (leavingMatch true false).configAddr.val = (0 : Channel).val ∧ ((leavingMatch true false).chan 0).mode ≠ .off := by
  decide +kernel

/-- R187, R47: the claim goes with the last ready channel; the memory is then the table controller's, or free. -/
theorem test_mode_to_off : ((after .modeToOff (leavingMatch true false)).chan 0).mode = .off
    ∧ (after .modeToOff (leavingMatch true false)).grant = .held .table
    ∧ (after .grantEnd (after .modeToOff (leavingMatch true false))).grant = .decided .matchUnit
    ∧ (after .grantEnd (after .modeToOff (leavingMatch false true))).grant = .decided .table
    ∧ (after .grantEnd (after .modeToOff (leavingMatch false false))).grant = .free := by decide +kernel

theorem witness_modeOutOfOff : State.reset.inReset = false ∧ Settled State.reset
    ∧ State.reset.configAddr.val = (0 : Channel).val
    ∧ (State.reset.chan 0).mode = .off
    ∧ ((2 : Byte), Mode.matching) ∈ [((1 : Byte), Mode.bypass), (2, .matching)] := by decide +kernel

/-- R188: at mark the receiver begins in IDLE, at space in MARK_WAIT. -/
theorem test_mode_out_of_off : ((after (.modeOutOfOff 1) State.reset).ser 0).reception = .idle
    ∧ ((after (.modeOutOfOff 2) (State.reset.modSer 0 fun x => { x with rxMark := false })).ser 0).reception = .markWait
    ∧ ((after (.modeOutOfOff 2) State.reset).chan 0).mode = .matching := by decide +kernel

/-- `leavingMatch` with a full queue on CH0. -/
def leavingFull (lost : Bool) : State :=
  (leavingMatch true false).modChan 0 fun c =>
    { c with queue := List.replicate 32 (sym 0 .data 0x42 false 0 0), lost := lost }

theorem witness_modeBypassMatch :
    ((receiverAt .idle true).inReset = false ∧ (receiverAt .idle true).configAddr.val = (0 : Channel).val
        ∧ ((receiverAt .idle true).chan 0).mode = .bypass)
      ∧ Settled (receiverAt .idle true) ∧ Settled (leavingMatch true false)
      ∧ ((leavingMatch true false).chan 0).mode = .matching
      ∧ ((leavingMatch true false).chan 0).ready = some (sym 0 .data 0x41 false 0 0)
      ∧ ((leavingMatch true false).chan 0).queue.length < 32 := by decide +kernel

theorem witness_modeBypassMatch_noneReady :
    let s := (contending true false .matchFirst .table).modChan 0 fun c => { c with mode := .matching }
    (s.chan 0).mode = .matching ∧ Settled s ∧ (s.chan 0).ready = none := by decide +kernel

theorem witness_modeBypassMatch_fullQueue (lost : Bool) :
    (leavingFull lost).configAddr.val = (0 : Channel).val ∧ ((leavingFull lost).chan 0).mode = .matching
      ∧ Settled (leavingFull lost)
      ∧ ((leavingFull lost).chan 0).ready = some (sym 0 .data 0x41 false 0 0)
      ∧ 32 ≤ ((leavingFull lost).chan 0).queue.length ∧ ((leavingFull lost).chan 0).lost = lost := by
  revert lost
  decide +kernel

theorem test_mode_bypass_match : ((after (.modeBypassMatch 1) (leavingMatch true false)).chan 0).queue
      = [sym 0 .data 0x41 false 0 0]
    ∧ ((after (.modeBypassMatch 1) (leavingMatch true false)).chan 0).ready = none
    ∧ ((after (.modeBypassMatch 2) (receiverAt .idle true)).chan 0).mode = .matching := by decide +kernel

theorem witness_lineSettingsWrites :
    let s := { receiving .off with configAddr := 4 }
    s.inReset = false ∧ Settled s ∧ s.configAddr.val = 0x04 + (0 : SerialChannel).val ∧ (0x1F : Byte).toNat / 8 % 4 = 3
      ∧ (3 : Fin 8).val = (0x03 : Byte).toNat % 8 ∧ ((s.ser 0).baud = 3 ∧ (s.ser 0).parity = .off)
      ∧ (7 : Fin 8).val = (0x17 : Byte).toNat % 8
      ∧ ((0x17 : Byte).toNat / 8 % 4, Parity.odd) ∈ [(0, Parity.off), (1, .even), (2, .odd)] := by decide +kernel

/-- R178: a change discards the frame; the settings in force, and parity code 3, do not. -/
theorem test_line_settings_write :
    let s := { receiving .off with configAddr := 4 }
    ((after (.lineSettingsWrite 0x17) s).ser 0).parity = .odd ∧ ((after (.lineSettingsWrite 0x17) s).ser 0).baud = 7
      ∧ ((after (.lineSettingsWrite 0x17) s).ser 0).reception = .markWait
      ∧ ((after (.lineSettingsWrite 0x03) s).ser 0).reception = .frame
      ∧ ((after (.lineSettingsWrite 0x1F) s).ser 0).baud = 3 := by decide +kernel

theorem witness_plainConfigWrites :
    (pointed 0x07).inReset = false ∧ (∀ a, Settled (pointed a))
      ∧ (pointed 0x09).configAddr.val = 0x07 + (2 : SerialChannel).val
      ∧ (pointed 0x11).configAddr.val = 0x0E + (3 : Channel).val ∧ (pointed 0x15).configAddr.val = 0x15 + (0 : Fin 7).val
      ∧ (pointed 0x1B).configAddr.val = 0x15 + (6 : Fin 7).val ∧ (3 : EventLevel).val = (3 : Byte).toNat
      ∧ 4 < (5 : Byte).toNat ∧ (pointed 0x1C).configAddr.val = 0x1C ∧ (3 : EventLevel).val = (0x83 : Byte).toNat % 4
      ∧ (pointed 0x1D).configAddr.val = 0x1D ∧ (4 : Fin 5).val = (4 : Byte).toNat
      ∧ (pointed 0x21).configAddr.val = 0x1E + (3 : OutputNum).val ∧ (pointed 0x22).configAddr.val = 0x22
      ∧ 2 < (3 : Byte).toNat := by decide

theorem test_window_and_width_writes : ((after (.prefixWindowWrite 0) (pointed 0x09)).ser 2).prefixWindow = 0
    ∧ ((after (.tailWindowWrite 7) (pointed 0x11)).chan 3).tailWindow = 7
    ∧ ((after (.pulseWidthWrite 255) (pointed 0x21)).output 3).width = 255
    ∧ ((after (.pulseWidthWrite 0) (pointed 0x21)).output 3).width = 10
    ∧ (after (.pulseWidthWrite 0) (pointed 0x21)).configAddr = 0x22 := by decide +kernel

theorem test_level_floor_and_arbiter_writes :
    (after (.eventLevelWrite 3) (pointed 0x1B)).eventLevels[6] = some 3
      ∧ (after (.eventLevelWrite 5) (pointed 0x15)).eventLevels[0] = none
      ∧ (after (.arbiterModeWrite 2) (pointed 0x22)).arbiterMode = .alternate
      ∧ (after (.arbiterModeWrite 3) (pointed 0x22)).arbiterMode = .matchFirst := by decide +kernel

/-- R133: an event of level 1 asserts INT when INT is enabled with floor 1, and WAKE at floor 1. -/
theorem test_int_and_wake_floor_writes :
    (after (.intCtrlWrite 0x81) { events [1] with configAddr := 0x1C }).intLine = true
      ∧ (after (.intCtrlWrite 0x82) { events [1] with configAddr := 0x1C }).intLine = false
      ∧ (after (.wakeFloorWrite 1) { events [1] with configAddr := 0x1D }).wakeLine = true
      ∧ (after (.wakeFloorWrite 4) { events [3] with configAddr := 0x1D }).wakeLine = false := by decide +kernel

/-- L0 and L1 enabled at HIGH with changes to LOW pending since 0, at time base 10, and a FIFO of CH3 with one place
left; CONFIG_ADDR at an address. -/
def filling (a : Fin 64) : State :=
  let s := scanning.modLine 1 fun l => { l with raw := .low, enabled := true, debounced := some .high, change := some ⟨.low, 0⟩ }
  { s.modChan 3 fun c => { c with fifo := List.replicate 7 (rawByte 0 0) } with configAddr := a }

theorem witness_lineConfigWrites :
    (pointed 0x12).inReset = false ∧ Settled (pointed 0x12) ∧ (∀ a, Settled (filling a))
      ∧ (pointed 0x12).configAddr.val = 0x12
      ∧ (filling 0x13).inReset = false ∧ (filling 0x13).configAddr.val = 0x13 ∧ (filling 0x14).configAddr.val = 0x14
      ∧ ((filling 0x13).chan lineChannel).mode ≠ .off ∧ 8 - ((filling 0x13).chan lineChannel).fifo.length = 1
      ∧ ((filling 0x13).chan lineChannel).overrunPending = false
      ∧ (∀ n ∈ [(0 : LineNum), 1], ((filling 0x13).line n).enabled = true
          ∧ ((filling 0x13).line n).activeHigh ≠ (0x03 : Byte).getLsbD n.val
          ∧ ∃ p ∈ ((filling 0x14).line n).change, p.time + (10 : Byte).toNat = (filling 0x14).timeBase)
      ∧ (∀ n, ∀ p ∈ ((filling 0x14).line n).change, (filling 0x14).timeBase < p.time + (11 : Byte).toNat)
      ∧ (scanning.chan lineChannel).fifo.length = 0 := by decide +kernel

/-- R181, R183: of two changed lines the first is reported and the second lost, INPUT_OVERRUN offered once. -/
theorem test_line_writes_fill_the_fifo :
    ((after (.linesPolarityWrite 0x03) (filling 0x13)).chan 3).fifo.drop 7 = [⟨.line 0 true, 10⟩]
      ∧ ((after (.debounceWrite 10) (filling 0x14)).chan 3).fifo.drop 7 = [⟨.line 0 true, 10⟩]
      ∧ ((after (.debounceWrite 10) (filling 0x14)).chan 3).overrunPending = true
      ∧ ((after (.debounceWrite 10) (filling 0x14)).line 1).debounced = some .low := by decide +kernel

/-- R181: enabling takes the raw level and reports nothing. -/
theorem test_lines_enable_write : (after (.linesEnableWrite 0x80) (pointed 0x12)).line 7 = ⟨.high, true, false, some .high, none⟩
    ∧ ((after (.linesEnableWrite 0x80) (pointed 0x12)).chan 3).fifo = []
    ∧ (after (.linesEnableWrite 0) { steadyLine 5 with configAddr := 0x12 }).line 7 = ⟨.high, false, false, none, none⟩ := by
  decide +kernel

/-- R181: L7 at HIGH becomes active; a debounce time written down to 10 makes the change pending since 0 due. -/
theorem test_lines_polarity_and_debounce_writes :
    ((after (.linesPolarityWrite 0x81) { steadyLine 5 with configAddr := 0x13 }).chan 3).fifo = [⟨.line 7 true, 40⟩]
      ∧ ((after (.debounceWrite 10) { scanning with configAddr := 0x14, debounce := 50 }).chan 3).fifo = [⟨.line 0 true, 10⟩]
      ∧ ((after (.debounceWrite 11) { scanning with configAddr := 0x14, debounce := 50 }).chan 3).fifo = [] := by
  decide +kernel

/-! ## The event of a grant -/

/-- The second and third parts: a pass, a command and a step that the arbiter has decided for, each taken. -/
theorem witness_grantEndDecides_taken :
    (firstPress.grant = .decided .matchUnit ∧ firstPress.inReset = false ∧ isGrantEvent .matchPass = true
        ∧ (after .matchPass firstPress).grant = .held .matchUnit)
      ∧ (∃ t, exec .matchPass firstPress = .next t) ∧ GrantConsistent firstPress
      ∧ (after .define (defining 63)).grant = .held .table ∧ GrantConsistent (defining 63)
      ∧ (after .compactionMove (compacting 10)).grant = .held .table ∧ GrantConsistent (compacting 10) := by
  refine ⟨by decide +kernel, ⟨_, rfl⟩, ?_, by decide +kernel, ?_, by decide +kernel, ?_⟩ <;>
    (unfold GrantConsistent MatchWaits TableWaits ReadyChannel; decide +kernel)

/-- R172, R166: a grant made is not taken back. CH0 goes to OFF after its pass, the symbol delivered; COMMAND is written
after the step, the run moved, and the command waits. -/
theorem test_grant_is_taken_in_full :
    let s := { leavingMatch false true with grant := .decided .matchUnit }
    let t := after (.commandWrite 4) (compacting 10)
    ((after .modeToOff s).chan 0).queue = [sym 0 .data 0x41 false 0 0] ∧ ((after .modeToOff s).chan 0).mode = .off
      ∧ (after .modeToOff s).grant = .held .matchUnit
      ∧ (t.slot 5).record? = some ⟨plainPattern 2 8, 4⟩ ∧ t.pendingCommand = some 4 ∧ t.grant = .held .table := by
  decide +kernel

/-! ## What every command keeps -/

/-- Section 12.1 at arrival 3, the pass at the front of the queue. -/
def running : State := { lastPress with pending := [.matchPass] }

theorem witness_stepKeepsLinesFollowQueue : LinesFollowQueue running ∧ ∃ t, step running = .next t :=
  ⟨by unfold LinesFollowQueue; decide +kernel, _, rfl⟩

theorem poolConsistent_running : PoolConsistent running :=
  poolConsistent_of (by decide +kernel) (by decide +kernel)

theorem witness_stepKeepsCapacityAndPool : WithinCapacity running ∧ PoolConsistent running ∧ ∃ t, step running = .next t :=
  ⟨by unfold WithinCapacity; decide +kernel, poolConsistent_running, _, rfl⟩

theorem witness_stepKeepsLineSide : ReceiversConsistent running ∧ OutputsConsistent running
    ∧ LinesConsistent { scanning with pending := [.debouncedChange 0] } ∧ ∃ t, step running = .next t :=
  ⟨by unfold ReceiversConsistent; decide +kernel, by unfold OutputsConsistent; decide +kernel,
    by
      show ∀ n : LineNum, _ ∧ _ ∧ ∀ d ∈ (_ : Option LineLevel), _
      decide +kernel,
    _, rfl⟩

theorem witness_stepKeepsOrder : GrantConsistent running ∧ ArrivalsOrdered running ∧ ∃ t, step running = .next t :=
  ⟨by unfold GrantConsistent MatchWaits TableWaits ReadyChannel; decide +kernel,
    by unfold ArrivalsOrdered; decide +kernel, _, rfl⟩

theorem candidateSound_running : CandidateSound running 3 ⟨2, 2, none, 0⟩ :=
  ⟨⟨⟨buttons, 0⟩, by decide +kernel⟩, by decide +kernel, by decide +kernel, by decide +kernel⟩

theorem contextsConsistent_running : ContextsConsistent running := by
  have others : ∀ ch : Channel, ch ≠ 3 → running.chan ch = Chan.reset := by decide +kernel
  have lockouts : ∀ ch : Channel, (running.chan ch).lockouts = [] := by decide +kernel
  have candidates : (running.chan 3).candidates = [⟨2, 2, none, 0⟩] := by decide +kernel
  have mode : (running.chan 3).mode = .matching := by decide +kernel
  intro ch
  rw [lockouts ch]
  by_cases h : ch = 3
  · subst h
    rw [candidates, mode]
    exact ⟨fun h => absurd rfl h, by simpa using candidateSound_running, by simp, by simp, by simp⟩
  · rw [others ch h]
    exact ⟨fun _ => ⟨rfl, rfl, rfl⟩, by simp [Chan.reset], by simp [Chan.reset], by simp, by simp⟩

theorem witness_stepKeepsContexts : GrantConsistent running ∧ PoolConsistent running ∧ ArrivalsOrdered running
    ∧ WithinCapacity running ∧ ContextsConsistent running ∧ HeldWithinLimit running ∧ ∃ t, step running = .next t :=
  ⟨witness_stepKeepsOrder.1, poolConsistent_running, witness_stepKeepsOrder.2.1, witness_stepKeepsCapacityAndPool.1,
    contextsConsistent_running, by unfold HeldWithinLimit; decide +kernel, _, rfl⟩

end Sys2Proof.Tests
end

/-! The bytes that make no symbol: DROP, lead and RELEASE (R10–R12), and the host's writes to a class map (R7, R195). -/

namespace Sys2Proof.Machine

/-! ## The take of a byte that makes no symbol (R10–R12) -/

/-- What the take of a byte leaves that makes no symbol: the FIFO without its head, and the assembler `b`. -/
def State.takenWithPrefix (s : State) (i : SerialChannel) (rest : List RawEntry) (b : Assembler) : State :=
  (s.modChan (serialChannel i) fun c => { c with fifo := rest }).modSer i fun x => { x with assembler := b }

/-- A change of the assembler after the take is a take that leaves the changed assembler. -/
theorem modSer_takenWithPrefix (s : State) (i : SerialChannel) (rest : List RawEntry) (b : Assembler)
    (f : Assembler → Assembler) :
    ((s.takenWithPrefix i rest b).modSer i fun x => { x with assembler := f x.assembler })
      = s.takenWithPrefix i rest (f b) := by
  simp [State.takenWithPrefix, State.modSer]

/-- R11 after R15: a lead byte keeps the pending release. -/
theorem leadWith_takenWithPrefix (s : State) (i : SerialChannel) (rest : List RawEntry) (b : Assembler)
    (e : Extension) (t : Time) :
    (s.takenWithPrefix i rest b).leadWith i e t = s.takenWithPrefix i rest ⟨e, b.rel, some t⟩ :=
  modSer_takenWithPrefix s i rest b fun a => { a with ext := e, prefixStamp := some t }

section Take

variable {s : State} {i : SerialChannel} {v : Byte} {t : Time} {rest : List RawEntry}
  (takes : TakesFrom s (serialChannel i) ⟨.byte v, t⟩ rest)
  (noOverrun : (s.chan (serialChannel i)).overrunPending = false)

include takes

/-- R5, R15: every class of byte acts on the FIFO without its head and on the assembler that R15's test leaves. -/
theorem afterByteTake_takes :
    s.afterByteTake i t = s.takenWithPrefix i rest ((s.ser i).assemblerAt t) := by
  rw [afterByteTake_eq, popRaw_eq takes]
  rfl

include noOverrun

theorem takeByte_takes {cls : ByteClass} (hclass : (s.ser i).classMap[v.toNat] = cls)
    (act : State → Byte → Time → State) :
    s.takeByte i cls act = act (s.takenWithPrefix i rest ((s.ser i).assemblerAt t)) v t := by
  simp [State.takeByte, takeable?_eq takes noOverrun, hclass, afterByteTake_takes takes]

theorem takeRelease_takes (hclass : (s.ser i).classMap[v.toNat] = .release) :
    s.takeRelease i = s.takenWithPrefix i rest ⟨((s.ser i).assemblerAt t).ext, true, some t⟩ := by
  rw [State.takeRelease, takeByte_takes takes noOverrun hclass]
  exact modSer_takenWithPrefix s i rest _ fun a => { a with rel := true, prefixStamp := some t }

/-- R11: the class of the lead byte says which extension is pending. -/
theorem takeLead_takes {e : Extension}
    (hclass : ((s.ser i).classMap[v.toNat] = .leadA ∧ e = .a) ∨ ((s.ser i).classMap[v.toNat] = .leadB ∧ e = .b)) :
    s.takeLead i = s.takenWithPrefix i rest ⟨e, ((s.ser i).assemblerAt t).rel, some t⟩ := by
  rw [← leadWith_takenWithPrefix, ← afterByteTake_takes takes]
  obtain ⟨hleadA, rfl⟩ | ⟨hleadB, rfl⟩ := hclass
  · simp [State.takeLead, takeable?_eq takes noOverrun, hleadA]
  · simp [State.takeLead, takeable?_eq takes noOverrun, hleadB]

end Take

theorem exec_takeDropByte {s : State} (h : Settled s) (i : SerialChannel) :
    exec (.takeDropByte i) s = .next (s.takeByte i .drop fun u _ _ => u) :=
  afterGrant_settled h fun t => t.takeByte i .drop fun u _ _ => u

theorem exec_takeLeadByte {s : State} (h : Settled s) (i : SerialChannel) :
    exec (.takeLeadByte i) s = .next (s.takeLead i) :=
  afterGrant_settled h fun t => t.takeLead i

theorem exec_takeReleaseByte {s : State} (h : Settled s) (i : SerialChannel) :
    exec (.takeReleaseByte i) s = .next (s.takeRelease i) :=
  afterGrant_settled h fun t => t.takeRelease i

/-- Settles O12: each class of byte acts on the state that the removal of the head and R15's test leave,
and changes the assembler alone. -/
theorem prefixBytes : Obligations.PrefixBytes := by
  intro s i v t rest takes noOverrun
  have settled : Settled s := takes.1
  refine ⟨fun hdrop => ?_, fun hleadA => ?_, fun hleadB => ?_, fun hrelease => ?_⟩
  · exact (exec_takeDropByte settled i).trans (congrArg _ (takeByte_takes takes noOverrun hdrop _))
  · exact (exec_takeLeadByte settled i).trans (congrArg _ (takeLead_takes takes noOverrun (.inl ⟨hleadA, rfl⟩)))
  · exact (exec_takeLeadByte settled i).trans (congrArg _ (takeLead_takes takes noOverrun (.inr ⟨hleadB, rfl⟩)))
  · exact (exec_takeReleaseByte settled i).trans (congrArg _ (takeRelease_takes takes noOverrun hrelease))

/-! ## Writes to a class map (R7, R195) -/

theorem selectedMap?_of_val {s : State} {i : SerialChannel} (h : s.classSel.val = i.val) :
    s.selectedMap? = some i := by
  simp [State.selectedMap?, h]

theorem selectedMap?_none {s : State} (h : s.classSel = 3) : s.selectedMap? = none := by
  simp [State.selectedMap?, h]

/-- R195: the class codes. -/
theorem classOf?_code {v : Byte} {k : ByteClass}
    (h : (v, k) ∈ [((0 : Byte), ByteClass.plain), (1, .leadA), (2, .leadB), (3, .release), (4, .drop)]) :
    classOf? v = some k := by
  simp only [List.mem_cons, Prod.mk.injEq, List.not_mem_nil, or_false] at h
  obtain ⟨rfl, rfl⟩ | ⟨rfl, rfl⟩ | ⟨rfl, rfl⟩ | ⟨rfl, rfl⟩ | ⟨rfl, rfl⟩ := h <;> rfl

theorem writeClassData_set {s : State} {v : Byte} {i : SerialChannel} {k : ByteClass} (hmap : s.selectedMap? = some i)
    (hcode : classOf? v = some k) :
    s.writeClassData v = { s.setClass i s.classAddr k with classAddr := s.classAddr + 1 } := by
  simp [State.writeClassData, hmap, hcode]

theorem writeClassData_keep {s : State} {v : Byte} (h : s.selectedMap? = none ∨ classOf? v = none) :
    s.writeClassData v = { s with classAddr := s.classAddr + 1 } := by
  obtain hmap | hcode := h
  · simp [State.writeClassData, hmap]
  · simp [State.writeClassData, hcode]

theorem exec_classDataWrite {s : State} (hr : s.inReset = false) (h : Settled s) (v : Byte) :
    exec (.classDataWrite v) s = .next (s.writeClassData v) :=
  hostAccess_run hr h fun t => t.writeClassData v

/-- Settles O48: a write sets one class where a map is selected and the value is a class code, and none otherwise. -/
theorem classDataWrites : Obligations.ClassDataWrites := by
  intro s v running settled
  refine ⟨fun i k hsel hcode => ?_, fun h => ?_⟩
  · rw [exec_classDataWrite running settled, writeClassData_set (selectedMap?_of_val hsel) (classOf?_code hcode)]
    rfl
  · rw [exec_classDataWrite running settled, writeClassData_keep (h.imp selectedMap?_none classOf?_none)]

end Sys2Proof.Machine

/-! When an element matches a symbol (R35–R37). -/

namespace Sys2Proof.Machine

/-! ## The tests of a SYMBOL element (R37) -/

theorem ExtensionTest.accepts_iff (t : ExtensionTest) (x : Extension) :
    t.accepts x = true ↔
      (t = .plain ∧ x = .plain) ∨ (t = .a ∧ x = .a) ∨ (t = .b ∧ x = .b) ∨ t = .either := by
  cases t <;> simp [ExtensionTest.accepts]

theorem ReleaseTest.accepts_iff (t : ReleaseTest) (x : Bool) :
    t.accepts x = true ↔ (t = .press ∧ x = false) ∨ (t = .release ∧ x = true) ∨ t = .either := by
  cases t <;> simp [ReleaseTest.accepts]

theorem testsPass_iff (e : Element) (x : Symbol) :
    testsPass e x = true ↔
      codesAgree e x.code = true ∧ e.extension.accepts x.extension = true
        ∧ e.release.accepts x.release = true := by
  simp only [testsPass, Bool.and_eq_true, and_assoc]

/-! ## The table of kinds (R35) -/

section Kinds

variable {e : Element} (x : Symbol)

theorem elementMatches_symbol_iff (h : e.kind = .symbol) :
    elementMatches e x = true ↔ (x.kind = .data ∨ x.kind = .line) ∧ testsPass e x = true := by
  cases hx : x.kind <;> simp [elementMatches, h, hx]

theorem elementMatches_any_iff (h : e.kind = .any) : elementMatches e x = true ↔ x.kind ≠ .error := by
  cases hx : x.kind <;> simp [elementMatches, h, hx]

theorem elementMatches_brk_iff (h : e.kind = .brk) : elementMatches e x = true ↔ x.kind = .brk := by
  cases hx : x.kind <;> simp [elementMatches, h, hx]

end Kinds

/-- Settles O19: one row of R35's table per kind of element; the row of a SYMBOL element is the three tests. -/
theorem elementMatching : Obligations.ElementMatching := by
  intro e x
  cases hkind : e.kind with
  | symbol =>
    rw [elementMatches_symbol_iff x hkind, testsPass_iff, codesAgree_iff, ExtensionTest.accepts_iff,
      ReleaseTest.accepts_iff]
    simp
  | any => simp [elementMatches_any_iff x hkind]
  | brk => simp [elementMatches_brk_iff x hkind]

end Sys2Proof.Machine

/-! Delivery and the take latch: TAKE and FLUSH on the channel selected (R111, R113). -/

namespace Sys2Proof.Machine

/-! ## Held and free by the births of the swallowing candidates (R45, R91) -/

section Held

variable {s : State} {ch : Channel} {x : Symbol}

theorem heldBy_boundary_iff :
    heldBy (s.boundary ch) x = true ↔ ∃ c ∈ (s.chan ch).candidates, s.swallowing c = true ∧ c.birth ≤ x.arrival := by
  simp [heldBy_boundary]

/-- R91: an entry is free when every swallowing candidate was born after it. -/
theorem heldBy_boundary_eq_false_iff :
    heldBy (s.boundary ch) x = false ↔ ∀ c ∈ (s.chan ch).candidates, s.swallowing c = true → x.arrival < c.birth := by
  simp [heldBy_boundary]

end Held

/-! ## TAKE on a channel (R111): one equation for each row of its table -/

section TakeHead

variable {s : State} {ch : Channel}

theorem takeHead_nil (hqueue : (s.chan ch).queue = []) :
    s.takeHead ch = s.modChan ch fun c => { c with latch := none } := by
  simp [State.takeHead, hqueue]

variable {x : Symbol} {rest : List Symbol} (hqueue : (s.chan ch).queue = x :: rest)

include hqueue

theorem takeHead_free (hfree : heldBy (s.boundary ch) x = false) :
    s.takeHead ch = s.modChan ch fun c => { c with queue := rest, latch := some x, lost := false } := by
  simp [State.takeHead, hqueue, hfree]

theorem takeHead_held (hheld : heldBy (s.boundary ch) x = true) :
    s.takeHead ch = s.modChan ch fun c => { c with latch := none } := by
  simp [State.takeHead, hqueue, hheld]

end TakeHead

/-! ## The commands -/

theorem exec_take {s : State} (hr : s.inReset = false) (h : Settled s) :
    exec .take s = .next (s.takeHead s.chanSel) :=
  hostAccess_run hr h fun t => t.takeHead t.chanSel

theorem exec_flush {s : State} (hr : s.inReset = false) (h : Settled s) :
    exec .flush s = .next (s.flushQueue s.chanSel) :=
  hostAccess_run hr h fun t => t.flushQueue t.chanSel

/-- Settles O31: FLUSH acts on the channel selected, and its one change is that channel's. -/
theorem flushEmptiesQueue : Obligations.FlushEmptiesQueue :=
  fun _ running settled => exec_flush running settled

/-- Settles O30: the three rows of R111's table, with the hold boundary read as the births of the swallowing
candidates. -/
theorem takeMovesFreeHead : Obligations.TakeMovesFreeHead := by
  intro s running settled
  rw [exec_take running settled]
  refine ⟨fun hempty => ?_, fun x rest hqueue => ⟨fun hfree => ?_, fun hheld => ?_⟩⟩
  · rw [takeHead_nil hempty]
  · rw [takeHead_free hqueue (heldBy_boundary_eq_false_iff.mpr hfree)]
  · rw [takeHead_held hqueue (heldBy_boundary_iff.mpr hheld)]

end Sys2Proof.Machine

/-! INT and WAKE follow the event queue (R133). A change of the queue or of a condition ends in a refresh; every other
operation leaves alone what the conditions read. -/

namespace Sys2Proof.Machine

theorem linesFollowQueue_reset : LinesFollowQueue State.reset := by
  simp [LinesFollowQueue, State.reset]

/-- R120: a creation ends in a refresh, whatever INT and WAKE were before. -/
theorem createEvent_follow (s : State) (l : EventLevel) (o : Offer) : LinesFollowQueue (s.createEvent l o) :=
  refreshLines_follow _

/-- Both branches of a condition that the commands judge. -/
theorem ite_follow {p : Prop} [Decidable p] {t u : State} (ht : LinesFollowQueue t) (hu : LinesFollowQueue u) :
    LinesFollowQueue (if p then t else u) :=
  iteInduction (fun _ => ht) fun _ => hu

section Follow

variable {s : State} (h : LinesFollowQueue s)

include h

/-! ## Operations that leave the event unit alone, and offers -/

/-- R133: the conditions read the queue and the floors, so who keeps the event unit keeps INT and WAKE at them. -/
theorem LinesFollowQueue.of_keeps {p : Parts} {t : State} (k : Keeps p s t) (hp : p.events = false) :
    LinesFollowQueue t := by
  unfold LinesFollowQueue
  rw [k.eventQueue hp, k.intLine hp, k.wakeLine hp, k.intEnable, k.intFloor, k.wakeFloor]
  exact h

theorem LinesFollowQueue.modChan (ch : Channel) (f : Chan → Chan) : LinesFollowQueue (s.modChan ch f) :=
  h.of_keeps (modChan_keeps s ch f) rfl

theorem LinesFollowQueue.modSer (i : SerialChannel) (f : Serial → Serial) : LinesFollowQueue (s.modSer i f) :=
  h.of_keeps (modSer_keeps s i f) rfl

theorem LinesFollowQueue.modLine (n : LineNum) (f : Line → Line) : LinesFollowQueue (s.modLine n f) :=
  h.of_keeps (modLine_keeps s n f) rfl

theorem LinesFollowQueue.arbitrate : LinesFollowQueue s.arbitrate :=
  h.of_keeps (arbitrate_keeps s) rfl

/-- R118: an offer is created or discarded. -/
theorem LinesFollowQueue.offer (o : Offer) : LinesFollowQueue (s.offer o) := by
  unfold State.offer
  split
  · exact createEvent_follow s _ o
  · exact h

/-! ## The delivery unit -/

theorem LinesFollowQueue.loseSymbol (ch : Channel) (x : Symbol) : LinesFollowQueue (s.loseSymbol ch x) :=
  ite_follow h ((h.modChan ch _).offer _)

theorem LinesFollowQueue.cancelOldestSwallowing (ch : Channel) (d : Time) :
    LinesFollowQueue (s.cancelOldestSwallowing ch d) := by
  unfold State.cancelOldestSwallowing
  split
  · exact (h.modChan ch _).offer _
  · exact h

theorem LinesFollowQueue.enforceHold (ch : Channel) (d : Time) (rounds : Nat) :
    LinesFollowQueue (s.enforceHold ch d rounds) := by
  induction rounds generalizing s with
  | zero => exact h
  | succ rounds ih =>
    unfold State.enforceHold
    split
    · exact ih (h.cancelOldestSwallowing ch d)
    · exact h

theorem LinesFollowQueue.storeSymbol (ch : Channel) (x : Symbol) : LinesFollowQueue (s.storeSymbol ch x) :=
  ite_follow ((h.modChan ch _).enforceHold ch x.stamp _) (h.loseSymbol ch x)

theorem LinesFollowQueue.deliver (ch : Channel) (x : Symbol) : LinesFollowQueue (s.deliver ch x) := by
  unfold State.deliver
  split
  · split
    · exact h.modChan ch _
    · exact (h.modChan ch _).storeSymbol ch x
  · exact h.storeSymbol ch x

/-! ## Arrivals and symbols -/

theorem LinesFollowQueue.arrive (ch : Channel) (k : RawKind) : LinesFollowQueue (s.arrive ch k) :=
  ite_follow (h.of_keeps (appendRaw_keeps s ch k) rfl) (ite_follow h ((h.modChan ch _).offer _))

theorem LinesFollowQueue.makeSymbol (ch : Channel) (x : ArrivalNum → Symbol) :
    LinesFollowQueue (s.makeSymbol ch x) := by
  have counted := h.modChan ch fun c => { c with arrivalCounter := c.arrivalCounter + 1 }
  unfold State.makeSymbol State.placeSymbol
  split
  · exact (counted.modChan ch _).arbitrate
  · exact counted.deliver ch _

theorem LinesFollowQueue.popRaw (ch : Channel) : LinesFollowQueue (s.popRaw ch) :=
  h.of_keeps (popRaw_keeps s ch) rfl

theorem LinesFollowQueue.discardPrefix (i : SerialChannel) : LinesFollowQueue (s.discardPrefix i) :=
  h.of_keeps (discardPrefix_keeps s i) rfl

theorem LinesFollowQueue.takeByte (i : SerialChannel) (cls : ByteClass) {act : State → Byte → Time → State}
    (hact : ∀ u v d, LinesFollowQueue u → LinesFollowQueue (act u v d)) :
    LinesFollowQueue (s.takeByte i cls act) := by
  unfold State.takeByte
  split
  · split
    · exact hact _ _ _ (h.of_keeps (afterByteTake_keeps s i _) rfl)
    · exact h
  · exact h

theorem LinesFollowQueue.takePlain (i : SerialChannel) : LinesFollowQueue (s.takePlain i) :=
  h.takeByte i .plain fun _ _ _ hu => (hu.discardPrefix i).makeSymbol _ _

theorem LinesFollowQueue.takeRelease (i : SerialChannel) : LinesFollowQueue (s.takeRelease i) :=
  h.takeByte i .release fun _ _ _ hu => hu.modSer i _

theorem LinesFollowQueue.takeLead (i : SerialChannel) : LinesFollowQueue (s.takeLead i) := by
  have led (d : Time) (e : Extension) : LinesFollowQueue ((s.afterByteTake i d).leadWith i e d) :=
    (h.of_keeps (afterByteTake_keeps s i d) rfl).of_keeps (leadWith_keeps _ i e d) rfl
  unfold State.takeLead
  split
  · split
    · exact led _ .a
    · exact led _ .b
    · exact h
  · exact h

theorem LinesFollowQueue.takeError (i : SerialChannel) : LinesFollowQueue (s.takeError i) := by
  unfold State.takeError
  split
  · exact (((h.popRaw _).discardPrefix i).offer _).makeSymbol _ _
  · exact h

theorem LinesFollowQueue.takeBreak (i : SerialChannel) : LinesFollowQueue (s.takeBreak i) := by
  unfold State.takeBreak
  split
  · exact ((h.popRaw _).discardPrefix i).makeSymbol _ _
  · exact h

theorem LinesFollowQueue.takeOverrun (ch : Channel) : LinesFollowQueue (s.takeOverrun ch) := by
  unfold State.takeOverrun
  split
  · exact ((h.modChan ch _).of_keeps (discardPrefixOf_keeps _ ch) rfl).makeSymbol ch _
  · exact h

theorem LinesFollowQueue.takeLine : LinesFollowQueue s.takeLine := by
  unfold State.takeLine
  split
  · exact (h.popRaw lineChannel).makeSymbol _ _
  · exact h

/-! ## The receivers, the line scanner and the time base -/

theorem LinesFollowQueue.endFrame (i : SerialChannel) (f : Frame) : LinesFollowQueue (s.endFrame i f) :=
  (h.modSer i _).arrive _ _

theorem LinesFollowQueue.reportLine (n : LineNum) (active : Bool) : LinesFollowQueue (s.reportLine n active) :=
  ite_follow h (h.arrive lineChannel _)

theorem LinesFollowQueue.takeChange (n : LineNum) : LinesFollowQueue (s.takeChange n) := by
  unfold State.takeChange
  split
  · split
    · exact (h.modLine n _).reportLine n _
    · exact h
  · exact h

theorem LinesFollowQueue.takeDueChanges : LinesFollowQueue s.takeDueChanges :=
  forEach_invariant allLines (fun _ n _ ht => ht.takeChange n) s h

theorem LinesFollowQueue.changeRawLevel (n : LineNum) (level : LineLevel) :
    LinesFollowQueue (s.changeRawLevel n level) := by
  unfold State.changeRawLevel
  split
  · exact h.modLine n _
  · dsimp only
    split
    · exact (h.modLine n _).takeChange n
    · exact h.modLine n _

theorem LinesFollowQueue.expirePulse (o : OutputNum) : LinesFollowQueue (s.expirePulse o) :=
  h.of_keeps (expirePulse_keeps s o) rfl

theorem LinesFollowQueue.withTimeBase (now : Time) : LinesFollowQueue { s with timeBase := now } := h

theorem LinesFollowQueue.advanceTime : LinesFollowQueue s.advanceTime := by
  have settled : LinesFollowQueue s.settleDue :=
    forEach_invariant allOutputs (fun _ o _ ht => ht.expirePulse o) _ h.takeDueChanges
  exact settled.withTimeBase _

/-! ## The match pass (R50): its phases offer, and otherwise change contexts, slots and outputs -/

theorem LinesFollowQueue.passCandidates (ch : Channel) (x : Symbol) : LinesFollowQueue (s.passCandidates ch x) :=
  forEach_invariant _ (fun _ _ _ ht => ht.offer _) _ (h.modChan ch _)

theorem LinesFollowQueue.passSpawning (ch : Channel) (x : Symbol) (w : Spawning) :
    LinesFollowQueue (s.passSpawning ch x w) := by
  unfold State.passSpawning
  dsimp only
  split
  · exact (h.modChan ch _).offer _
  · exact h.modChan ch _

theorem LinesFollowQueue.offerMatch (ch : Channel) (x : Symbol) (d : Completion) :
    LinesFollowQueue (s.offerMatch ch x d) := by
  unfold State.offerMatch
  split
  · exact createEvent_follow s _ _
  · exact h

theorem LinesFollowQueue.passCompletions (ch : Channel) (x : Symbol) (done : List Completion) :
    LinesFollowQueue (s.passCompletions ch x done) := by
  have matched : LinesFollowQueue (forEach done (fun t d => t.offerMatch ch x d) s) :=
    forEach_invariant done (fun _ d _ ht => ht.offerMatch ch x d) s h
  have acted := matched.of_keeps (applyBatch_keeps _ (done.filterMap s.actionOf?)) rfl
  have disarmed := forEach_invariant done (fun t d _ ht => ht.of_keeps (disarmOneShot_keeps t d) rfl) _ acted
  unfold State.passCompletions
  dsimp only
  split
  · exact disarmed.modChan ch _
  · exact disarmed

theorem LinesFollowQueue.handOn (ch : Channel) (x : Symbol) (d : Disposition) :
    LinesFollowQueue (s.handOn ch x d) := by
  cases d with
  | swallowed b t => exact h.of_keeps (swallow_keeps s ch x b t) rfl
  | held => exact h.deliver ch x
  | free => exact h.deliver ch x

theorem LinesFollowQueue.runPass (ch : Channel) (x : Symbol) : LinesFollowQueue (s.runPass ch x) := by
  have expired : LinesFollowQueue (s.passExpiry ch x.stamp) := h.of_keeps (passExpiry_keeps s ch x.stamp) rfl
  unfold State.runPass State.passPhases
  dsimp only
  split
  · exact (expired.of_keeps (keepCandidates_keeps _ ch _) rfl).deliver ch x
  · exact (((expired.passCandidates ch x).passSpawning ch x _).passCompletions ch x _).handOn ch x _

theorem LinesFollowQueue.matchPass : LinesFollowQueue s.matchPass := by
  have begun (ch : Channel) : LinesFollowQueue (s.beginPass ch) := h
  unfold State.matchPass
  split
  · split
    · split
      · exact (begun _).runPass _ _
      · exact h
    · exact h
  · exact h

/-! ## The table commands and the steps of a compaction -/

theorem LinesFollowQueue.takeCommand (code : Byte) {work : State → Taken}
    (hwork : LinesFollowQueue (work s).2) : LinesFollowQueue (s.takeCommand code work) :=
  ite_follow hwork h

theorem LinesFollowQueue.unlessCompacting {work : Taken} (hwork : LinesFollowQueue work.2) :
    LinesFollowQueue (unlessCompacting s work).2 := by
  unfold Machine.unlessCompacting
  split
  · exact h
  · exact hwork

theorem LinesFollowQueue.withSlot {work : PatternNum → Taken} (hwork : ∀ n, LinesFollowQueue (work n).2) :
    LinesFollowQueue (withSlot s work).2 := by
  unfold Machine.withSlot
  split
  · exact hwork _
  · exact h

theorem LinesFollowQueue.defineWork (n : PatternNum) : LinesFollowQueue (s.defineWork n).2 := by
  have defined : LinesFollowQueue (s.defineSlot n).2 := by
    unfold State.defineSlot
    split
    · exact h
    · split
      · exact h
      · exact h.of_keeps (placeRun_keeps s n _ _ _) rfl
  unfold State.defineWork
  split
  · exact h
  · exact defined
  · exact defined

theorem LinesFollowQueue.armWork (n : PatternNum) : LinesFollowQueue (s.armWork n).2 := by
  unfold State.armWork
  split
  · exact h
  · exact h.of_keeps (setSlot_keeps s n _) rfl
  · exact h

theorem LinesFollowQueue.disarmWork (n : PatternNum) : LinesFollowQueue (s.disarmWork n).2 := by
  unfold State.disarmWork
  split
  · exact h
  · exact h
  · exact h.of_keeps (leaveArmed_keeps s n) rfl

theorem LinesFollowQueue.deleteWork (n : PatternNum) : LinesFollowQueue (s.deleteWork n).2 := by
  unfold State.deleteWork
  split
  · exact h
  · exact h.of_keeps (setSlot_keeps s n _) rfl
  · exact h

theorem LinesFollowQueue.withStaging (record : Vector Byte 58) : LinesFollowQueue { s with staging := record } := h

theorem LinesFollowQueue.readBackWork (n : PatternNum) : LinesFollowQueue (s.readBackWork n).2 := by
  unfold State.readBackWork
  split
  · exact h
  · exact h.withStaging _

theorem LinesFollowQueue.endCompaction : LinesFollowQueue s.endCompaction :=
  LinesFollowQueue.offer (s := { s with compacting := false }) h _

theorem LinesFollowQueue.compactionMove (n : PatternNum) : LinesFollowQueue (s.compactionMove n) := by
  have moved : LinesFollowQueue (s.moveRun n) := h.of_keeps (moveRun_keeps s n) rfl
  exact ite_follow moved.endCompaction moved

/-! ## The configuration space (R194) -/

theorem LinesFollowQueue.advanceConfig : LinesFollowQueue s.advanceConfig := h

theorem LinesFollowQueue.modeMatchToBypass (ch : Channel) : LinesFollowQueue (s.modeMatchToBypass ch) := by
  have left : LinesFollowQueue ((s.modChan ch fun c => { c with mode := .bypass, ready := none }).emptyContext ch) :=
    (h.modChan ch _).of_keeps (emptyContext_keeps _ ch) rfl
  unfold State.modeMatchToBypass
  dsimp only
  split
  · exact left.deliver ch _
  · exact left

theorem LinesFollowQueue.changeMode (ch : Channel) (m : Mode) : LinesFollowQueue (s.changeMode ch m) := by
  have stopped : LinesFollowQueue (s.modeOff ch) := h.of_keeps (modeOff_keeps s ch) rfl
  have started (m : Mode) : LinesFollowQueue (s.modeLeaveOff ch m) := h.of_keeps (modeLeaveOff_keeps s ch m) rfl
  unfold State.changeMode
  split
  · exact h
  · exact started .bypass
  · exact started .matching
  · exact stopped
  · exact h
  · exact h.of_keeps (modeBypassToMatch_keeps s ch) rfl
  · exact stopped
  · exact h.modeMatchToBypass ch
  · exact h

theorem LinesFollowQueue.writeMode (ch : Channel) (v : Byte) : LinesFollowQueue (s.writeMode ch v) := by
  unfold State.writeMode
  split
  · exact h.changeMode ch _
  · exact h

theorem LinesFollowQueue.writeHoldLimit (ch : Channel) (v : Byte) : LinesFollowQueue (s.writeHoldLimit ch v) :=
  ite_follow ((h.modChan ch _).enforceHold ch _ _) h

theorem LinesFollowQueue.setPolarity (n : LineNum) (activeHigh : Bool) :
    LinesFollowQueue (s.setPolarity n activeHigh) := by
  unfold State.setPolarity
  split
  · exact h
  · dsimp only
    split
    · exact (h.modLine n _).reportLine n _
    · exact h.modLine n _

theorem LinesFollowQueue.writeLinesPolarity (v : Byte) : LinesFollowQueue (s.writeLinesPolarity v) :=
  forEach_invariant allLines (fun _ n _ ht => ht.setPolarity n _) s h

theorem LinesFollowQueue.writeDebounce (v : Byte) : LinesFollowQueue (s.writeDebounce v) :=
  LinesFollowQueue.takeDueChanges (s := { s with debounce := v }) h

theorem LinesFollowQueue.writeEventLevel (k : Fin 7) (v : Byte) : LinesFollowQueue (s.writeEventLevel k v) := by
  unfold State.writeEventLevel
  split
  · exact h
  · exact h

theorem LinesFollowQueue.writeWakeFloor (v : Byte) : LinesFollowQueue (s.writeWakeFloor v) := by
  unfold State.writeWakeFloor
  split
  · exact refreshLines_follow _
  · exact h

theorem LinesFollowQueue.writeArbiterMode (v : Byte) : LinesFollowQueue (s.writeArbiterMode v) := by
  unfold State.writeArbiterMode
  split
  · exact h
  · exact h

theorem LinesFollowQueue.writeConfigByte (v : Byte) : LinesFollowQueue (s.writeConfigByte v) := by
  unfold State.writeConfigByte
  split
  next ch _ => exact h.writeMode ch v
  next i _ => exact h.of_keeps (writeLineSettings_keeps s i v) rfl
  next i _ => exact h.of_keeps (writePrefixWindow_keeps s i v) rfl
  next ch _ => exact h.writeHoldLimit ch v
  next ch _ => exact h.of_keeps (writeTailWindow_keeps s ch v) rfl
  next => exact h.of_keeps (writeLinesEnable_keeps s v) rfl
  next => exact h.writeLinesPolarity v
  next => exact h.writeDebounce v
  next k _ => exact h.writeEventLevel k v
  next => exact refreshLines_follow _
  next => exact h.writeWakeFloor v
  next o _ => exact h.of_keeps (writePulseWidth_keeps s o v) rfl
  next => exact h.writeArbiterMode v
  next => exact h

/-! ## The direct registers (R192) -/

theorem LinesFollowQueue.writeOperand (v : Byte) : LinesFollowQueue (s.writeOperand v) :=
  ite_follow h h

theorem LinesFollowQueue.writeCommand (v : Byte) : LinesFollowQueue (s.writeCommand v) :=
  ite_follow h (LinesFollowQueue.arbitrate (s := { s with pendingCommand := some v }) h)

theorem LinesFollowQueue.writeStageAddr (v : Byte) : LinesFollowQueue (s.writeStageAddr v) := by
  unfold State.writeStageAddr
  split
  · exact h
  · split
    · exact h
    · exact h

theorem LinesFollowQueue.writeStageData (v : Byte) : LinesFollowQueue (s.writeStageData v) :=
  ite_follow h h

theorem LinesFollowQueue.readStageData : LinesFollowQueue s.readStageData :=
  ite_follow h h

theorem LinesFollowQueue.writeConfigAddr (v : Byte) : LinesFollowQueue (s.writeConfigAddr v) := by
  unfold State.writeConfigAddr
  split
  · exact h
  · exact h

theorem LinesFollowQueue.writeClassSel (v : Byte) : LinesFollowQueue (s.writeClassSel v) := by
  unfold State.writeClassSel
  split
  · exact h
  · exact h

theorem LinesFollowQueue.writeClassData (v : Byte) : LinesFollowQueue (s.writeClassData v) := by
  have advanced (a : Byte) {u : State} (hu : LinesFollowQueue u) : LinesFollowQueue { u with classAddr := a } := hu
  unfold State.writeClassData
  dsimp only
  split
  · exact advanced _ (h.of_keeps (setClass_keeps s _ _ _) rfl)
  · exact h

theorem LinesFollowQueue.writeChanSel (v : Byte) : LinesFollowQueue (s.writeChanSel v) := by
  unfold State.writeChanSel
  split
  · exact h
  · exact h

/-- R114: the take first, the flush second. -/
theorem LinesFollowQueue.writeChanCtrl (v : Byte) : LinesFollowQueue (s.writeChanCtrl v) := by
  have taken : LinesFollowQueue (if bitAt v 0 then s.takeHead s.chanSel else s) := by
    split
    · exact h.of_keeps (takeHead_keeps s s.chanSel) rfl
    · exact h
  unfold State.writeChanCtrl
  dsimp only
  split
  · exact taken.of_keeps (flushQueue_keeps _ _) rfl
  · exact taken

theorem LinesFollowQueue.clearLost (mask : BitVec 4) : LinesFollowQueue (s.clearLost mask) := h

theorem LinesFollowQueue.writeEventCtrl (v : Byte) : LinesFollowQueue (s.writeEventCtrl v) := by
  unfold State.writeEventCtrl
  dsimp only
  split
  · exact refreshLines_follow _
  · split
    · exact h.clearLost _
    · exact h

theorem LinesFollowQueue.writeRegister (addr : Fin 32) (v : Byte) : LinesFollowQueue (s.writeRegister addr v) := by
  unfold State.writeRegister
  split
  · exact h.writeCommand v
  · exact h.writeOperand v
  · exact h.writeStageAddr v
  · exact h.writeStageData v
  · exact h.writeConfigAddr v
  · exact (h.writeConfigByte v).advanceConfig
  · exact h.writeClassSel v
  · exact h
  · exact h.writeClassData v
  · exact h.writeEventCtrl v
  · exact h.of_keeps (writeOutputs_keeps s v) rfl
  · exact h.writeChanSel v
  · exact h.writeChanCtrl v
  · exact h.of_keeps (injectByte_keeps s s.chanSel v) rfl
  · exact h

/-! ## The receivers and the expiries, where their conditions are judged -/

theorem LinesFollowQueue.endGrant : LinesFollowQueue s.endGrant := by
  unfold State.endGrant
  split
  · exact LinesFollowQueue.arbitrate (s := { s with grant := .free }) h
  · exact h
  · exact h

theorem LinesFollowQueue.expireGap (ch : Channel) (n : PatternNum) (k : Nat) :
    LinesFollowQueue (s.expireGap ch n k) := by
  unfold State.expireGap
  split
  · split
    · exact h.modChan ch _
    · exact h
  · exact h

theorem LinesFollowQueue.expireLockout (ch : Channel) (n : PatternNum) :
    LinesFollowQueue (s.expireLockout ch n) := by
  unfold State.expireLockout
  split
  · split
    · exact h.modChan ch _
    · exact h
  · exact h

theorem LinesFollowQueue.expireTail (ch : Channel) : LinesFollowQueue (s.expireTail ch) := by
  unfold State.expireTail
  split
  · split
    · exact h.modChan ch _
    · exact h
  · exact h

end Follow

/-- R162: a runtime reset ends in a refresh. -/
theorem runtimeReset_follow (s : State) : LinesFollowQueue s.runtimeReset :=
  refreshLines_follow _

/-! ## The commands, those first that are the event of a grant (R172) -/

section Commands

variable {s t : State} (h : LinesFollowQueue s)

include h

/-- Each event of a grant, taken as a command. -/
theorem exec_grantEvent_follow {g : Instr} (hg : isGrantEvent g = true) (e : exec g s = .next t) :
    LinesFollowQueue t := by
  cases g <;> try exact absurd hg Bool.false_ne_true
  case matchPass => cases e; exact h.matchPass
  case define => cases e; exact h.takeCommand _ (h.unlessCompacting (h.withSlot h.defineWork))
  case arm => cases e; exact h.takeCommand _ (h.withSlot h.armWork)
  case disarm => cases e; exact h.takeCommand _ (h.withSlot h.disarmWork)
  case delete => cases e; exact h.takeCommand _ (h.unlessCompacting (h.withSlot h.deleteWork))
  case readBack => cases e; exact h.takeCommand _ (h.withSlot h.readBackWork)
  case clearLockout => cases e; exact h.takeCommand _ (h.withSlot fun n => h.of_keeps (removeLockouts_keeps s n) rfl)
  case compact => cases e; exact h.takeCommand _ (h.unlessCompacting h)
  case runtimeReset => cases e; exact h.takeCommand _ (runtimeReset_follow s)
  case badCommand =>
    cases e
    split
    · split
      · exact h.takeCommand _ h
      · exact h
    · exact h
  case compactionMove =>
    cases e
    split
    · split
      · exact LinesFollowQueue.compactionMove (s := s.useGrant .table) h _
      · exact h
    · exact h
  case compactionEnd => cases e; exact ite_follow (LinesFollowQueue.endCompaction (s := s.useGrant .table) h) h

/-- R172: the event at a grant is one of the commands above. -/
theorem LinesFollowQueue.grantTaken : LinesFollowQueue s.grantTaken :=
  grantTaken_invariant fun _ _ hg e => exec_grantEvent_follow h hg e

/-- Every command: the events of a grant on the state itself, the others on what the event of a grant left. -/
theorem exec_follow {c : Instr} (e : exec c s = .next t) : LinesFollowQueue t := by
  have taken := h.grantTaken
  cases c
  case matchPass | compactionMove | compactionEnd | define | arm | disarm | delete | readBack | clearLockout | compact
      | runtimeReset | badCommand =>
    exact exec_grantEvent_follow h rfl e
  case deviceReset asserted => cases e; exact linesFollowQueue_reset
  case timeBaseAdvance => cases e; exact ite_follow h taken.advanceTime
  case grantEnd => cases e; exact taken.endGrant
  case frameReceived i f => cases e; exact ite_follow (taken.endFrame i f) taken
  case frameStart i => cases e; exact ite_follow (taken.modSer i _) taken
  case falseStart i => cases e; exact ite_follow (taken.modSer i _) taken
  case markWaitEnd i => cases e; exact ite_follow taken (taken.modSer i _)
  case rawChange n level => cases e; exact ite_follow taken (taken.changeRawLevel n level)
  case debouncedChange n => cases e; exact taken.takeChange n
  case takePlainByte i => cases e; exact taken.takePlain i
  case takeLeadByte i => cases e; exact taken.takeLead i
  case takeReleaseByte i => cases e; exact taken.takeRelease i
  case takeDropByte i => cases e; exact taken.takeByte i .drop fun _ _ _ hw => hw
  case takeErrorEntry i => cases e; exact taken.takeError i
  case takeBreakEntry i => cases e; exact taken.takeBreak i
  case overrunTake ch => cases e; exact taken.takeOverrun ch
  case takeLineEntry => cases e; exact taken.takeLine
  case prefixExpiry i => cases e; exact ite_follow (taken.discardPrefix i) taken
  case gapDeadlineExpiry ch n k => cases e; exact taken.expireGap ch n k
  case lockoutExpiry ch n => cases e; exact taken.expireLockout ch n
  case tailExpiry ch => cases e; exact taken.expireTail ch
  case pulseExpiry o => cases e; exact taken.expirePulse o
  case modeToOff =>
    cases e
    refine ite_follow h ?_
    dsimp only
    split
    · split
      · exact taken
      · exact (taken.of_keeps (modeOff_keeps _ _) rfl).advanceConfig
    · exact taken
  case modeOutOfOff v =>
    cases e
    refine ite_follow h ?_
    dsimp only
    split
    · split
      · exact (taken.of_keeps (modeLeaveOff_keeps _ _ _) rfl).advanceConfig
      · exact taken
    · exact taken
  case modeBypassMatch v =>
    cases e
    refine ite_follow h ?_
    dsimp only
    split
    · split
      · exact (taken.modeMatchToBypass _).advanceConfig
      · exact (taken.of_keeps (modeBypassToMatch_keeps _ _) rfl).advanceConfig
      · exact taken
    · exact taken
  case lineSettingsWrite v | prefixWindowWrite v | holdLimitWrite v | tailWindowWrite v | linesEnableWrite v
      | linesPolarityWrite v | debounceWrite v | eventLevelWrite v | intCtrlWrite v | wakeFloorWrite v
      | pulseWidthWrite v | arbiterModeWrite v =>
    cases e
    refine ite_follow h ?_
    dsimp only
    have written := taken.writeConfigByte v
    unfold State.writeConfigByte at written
    split
    next target =>
      rw [target] at written
      exact written.advanceConfig
    next => exact taken
  case operandWrite v => cases e; exact ite_follow h (taken.writeOperand v)
  case commandWrite v => cases e; exact ite_follow h (taken.writeCommand v)
  case stageAddrWrite v => cases e; exact ite_follow h (taken.writeStageAddr v)
  case stageDataWrite v => cases e; exact ite_follow h (taken.writeStageData v)
  case stageDataRead => cases e; exact ite_follow h taken.readStageData
  case configAddrWrite v => cases e; exact ite_follow h (taken.writeConfigAddr v)
  case configDataRead => cases e; exact ite_follow h taken.advanceConfig
  case classSelWrite v => cases e; exact ite_follow h (taken.writeClassSel v)
  case classAddrWrite v => cases e; exact ite_follow h taken
  case classDataWrite v => cases e; exact ite_follow h (taken.writeClassData v)
  case classDataRead => cases e; exact ite_follow h taken
  case chanSelWrite v => cases e; exact ite_follow h (taken.writeChanSel v)
  case take => cases e; exact ite_follow h (taken.of_keeps (takeHead_keeps _ _) rfl)
  case flush => cases e; exact ite_follow h (taken.of_keeps (flushQueue_keeps _ _) rfl)
  case next => cases e; exact ite_follow h (refreshLines_follow _)
  case clearLost mask => cases e; exact ite_follow h (taken.clearLost mask)
  case outputsWrite v => cases e; exact ite_follow h (taken.of_keeps (writeOutputs_keeps _ v) rfl)
  case inject v => cases e; exact ite_follow h (taken.of_keeps (injectByte_keeps _ _ v) rfl)
  case registerWrite addr v => cases e; exact ite_follow h (taken.writeRegister addr v)

end Commands

/-- Settles O55: a step is the command at the front of the queue, and every command keeps INT and WAKE at their
conditions. -/
theorem stepKeepsLinesFollowQueue : Obligations.StepKeepsLinesFollowQueue := by
  intro s t h e
  unfold step at e
  split at e
  next => cases e; exact h
  next c rest _ => exact exec_follow (s := { s with pending := rest }) h e

end Sys2Proof.Machine

/-! The event unit's operations: an offer and its creation, NEXT and CLEAR_LOST (R118–R130). -/

namespace Sys2Proof.Machine

/-! ## Offers (R118, R119) -/

/-- R117, R119: the entry of the event-level table that a kind's code names. -/
theorem entry?_of_code {kind : EventKind} {k : Fin 7} (h : kind.code = k.val + 1) : kind.entry? = some k := by
  revert k
  cases kind <;> decide

section Offers

variable {s : State} {o : Offer} {k : Fin 7} (hcode : o.kind.code = k.val + 1)

include hcode

theorem tableLevel_of_code : s.tableLevel o.kind = s.eventLevels[k] := by
  simp [State.tableLevel, entry?_of_code hcode]

theorem offer_off (hoff : s.eventLevels[k] = none) : s.offer o = s := by
  simp [State.offer, tableLevel_of_code hcode, hoff]

theorem offer_at {l : EventLevel} (hlevel : s.eventLevels[k] = some l) : s.offer o = s.createEvent l o := by
  simp [State.offer, tableLevel_of_code hcode, hlevel]

end Offers

/-! ## A created event meets a full queue (R124–R126) -/

section Enqueue

variable {s : State} {e : EventRecord} (hfull : 32 ≤ s.eventQueue.length)

include hfull

/-- R125: no event of the queue is of a lower level than the new one, which is lost. -/
theorem enqueueEvent_drop (hlow : ∀ q ∈ s.eventQueue, e.level ≤ q.level) :
    s.enqueueEvent e = s.markLost e.level := by
  have nonempty : s.eventQueue ≠ [] := by
    intro hnil
    simp [hnil] at hfull
  obtain ⟨q, hq, hlowest⟩ := lowestLevel_attained nonempty
  have notLower : ¬ lowestLevel s.eventQueue < e.level := by
    rw [hlowest]
    exact not_lt.mpr (hlow q hq)
  rw [State.enqueueEvent, if_neg (not_lt.mpr hfull), if_neg notLower]

/-- R124: the youngest event of the lowest level makes room for one of a higher level, and is lost. -/
theorem enqueueEvent_evict {pre post : List EventRecord} {v : EventRecord} (hqueue : s.eventQueue = pre ++ v :: post)
    (hlevel : v.level < e.level) (hpre : ∀ q ∈ pre, v.level ≤ q.level) (hpost : ∀ q ∈ post, v.level < q.level) :
    s.enqueueEvent e = State.markLost { s with eventQueue := pre ++ post ++ [e] } v.level := by
  have lowest : lowestLevel s.eventQueue = v.level := by
    refine lowestLevel_eq (by simp [hqueue]) fun q hq => ?_
    rw [hqueue, List.mem_append, List.mem_cons] at hq
    obtain hq | rfl | hq := hq
    · exact hpre q hq
    · exact le_refl _
    · exact le_of_lt (hpost q hq)
  rw [State.enqueueEvent, if_neg (not_lt.mpr hfull), lowest, if_pos hlevel, hqueue, withoutYoungestLowest_eq hpre hpost]

end Enqueue

/-! ## Creation (R120): the record takes the next seq number, meets the queue (with room, `createEvent_room`), and the
lines are refreshed -/

section Create

variable {s : State} {l : EventLevel} {o : Offer} (hfull : 32 ≤ s.eventQueue.length)

include hfull

theorem createEvent_drop (hlow : ∀ q ∈ s.eventQueue, l ≤ q.level) :
    s.createEvent l o = State.refreshLines (State.markLost { s with eventSeq := s.eventSeq + 1 } l) :=
  congrArg State.refreshLines (enqueueEvent_drop (s := { s with eventSeq := s.eventSeq + 1 }) hfull hlow)

theorem createEvent_evict {pre post : List EventRecord} {v : EventRecord} (hqueue : s.eventQueue = pre ++ v :: post)
    (hlevel : v.level < l) (hpre : ∀ q ∈ pre, v.level ≤ q.level) (hpost : ∀ q ∈ post, v.level < q.level) :
    s.createEvent l o =
      State.refreshLines (State.markLost
        { s with eventSeq := s.eventSeq + 1, eventQueue := pre ++ post ++ [o.record s.eventSeq l] } v.level) :=
  congrArg State.refreshLines
    (enqueueEvent_evict (s := { s with eventSeq := s.eventSeq + 1 }) hfull hqueue hlevel hpre hpost)

end Create

/-- R120: a creation takes a seq number and changes the queue, the lost mask and the lines alone. -/
theorem createEvent_frame (s : State) (l : EventLevel) (o : Offer) :
    s.createEvent l o =
      { s with
        eventQueue := (s.createEvent l o).eventQueue
        lostMask := (s.createEvent l o).lostMask
        eventSeq := s.eventSeq + 1
        intLine := (s.createEvent l o).intLine
        wakeLine := (s.createEvent l o).wakeLine } := by
  unfold State.createEvent State.enqueueEvent
  split
  · rfl
  · split
    · rfl
    · rfl

/-- Settles O33: an offer by its entry of the table; a creation by the room of the queue and its lowest level. -/
theorem eventsAreCreated : Obligations.EventsAreCreated := by
  intro s l o e
  refine ⟨fun k hcode => ⟨offer_off hcode, offer_at hcode⟩, ⟨createEvent_frame s l o, createEvent_follow s l o⟩,
    fun hroom => ?_, fun hfull hlow => ?_, fun pre v post hfull hqueue hlevel hpre hpost => ?_⟩
  · obtain ⟨joined, -, kept⟩ := createEvent_room hroom
    exact ⟨joined, kept⟩
  · rw [createEvent_drop hfull hlow]
    exact ⟨rfl, markLost_get _ _⟩
  · rw [createEvent_evict hfull hqueue hlevel hpre hpost]
    exact ⟨rfl, markLost_get _ _⟩

/-! ## NEXT (R123, R130) -/

section Next

variable {pre post : List EventRecord} {e : EventRecord} (hpre : ∀ q ∈ pre, q.level < e.level)
  (hpost : ∀ q ∈ post, q.level ≤ e.level)

include hpre hpost

theorem highestLevel_best : highestLevel (pre ++ e :: post) = e.level := by
  refine highestLevel_eq (by simp) fun q hq => ?_
  rw [List.mem_append, List.mem_cons] at hq
  obtain hq | rfl | hq := hq
  · exact le_of_lt (hpre q hq)
  · exact le_refl _
  · exact hpost q hq

/-- R123: the best event is the oldest of the highest level present. -/
theorem bestEvent?_eq : bestEvent? (pre ++ e :: post) = some e := by
  have older : ∀ q ∈ pre, (q.level == e.level) = false := fun q hq => by simpa using (hpre q hq).ne
  rw [bestEvent?, highestLevel_best hpre hpost, List.find?_append, List.find?_eq_none.mpr (by simpa using older)]
  simp

theorem withoutBest_eq : withoutBest (pre ++ e :: post) = pre ++ post := by
  have older : ∀ q ∈ pre, ¬ (q.level == e.level) = true := fun q hq => by simpa using (hpre q hq).ne
  rw [withoutBest, highestLevel_best hpre hpost, List.eraseP_append_right _ older, List.eraseP_cons_of_pos (by simp)]

end Next

theorem exec_next {s : State} (hr : s.inReset = false) (h : Settled s) : exec .next s = .next s.presentNext :=
  hostAccess_run hr h State.presentNext

theorem presentNext_follow (s : State) : LinesFollowQueue s.presentNext :=
  refreshLines_follow _

theorem presentNext_nil {s : State} (hqueue : s.eventQueue = []) :
    s.presentNext = State.refreshLines { s with presented := none } := by
  simp [State.presentNext, hqueue, bestEvent?, withoutBest]

theorem presentNext_best {s : State} {pre post : List EventRecord} {e : EventRecord}
    (hqueue : s.eventQueue = pre ++ e :: post) (hpre : ∀ q ∈ pre, q.level < e.level)
    (hpost : ∀ q ∈ post, q.level ≤ e.level) :
    s.presentNext = State.refreshLines { s with presented := some e, eventQueue := pre ++ post } := by
  rw [State.presentNext, hqueue, bestEvent?_eq hpre hpost, withoutBest_eq hpre hpost]

/-- Settles O34: an empty queue leaves the latch not valid, and otherwise the best event moves to the latch. -/
theorem nextPresentsBest : Obligations.NextPresentsBest := by
  intro s running settled
  refine ⟨fun hempty => ?_, fun pre e post hqueue hpre hpost => ?_⟩
  · refine ⟨_, exec_next running settled, ?_⟩
    have follow := presentNext_follow s
    rw [presentNext_nil hempty] at follow ⊢
    exact ⟨rfl, hempty, follow, rfl⟩
  · refine ⟨_, exec_next running settled, presentNext_follow s, ?_⟩
    rw [presentNext_best hqueue hpre hpost]
    rfl

/-! ## CLEAR_LOST (R127) -/

theorem exec_clearLost {s : State} (hr : s.inReset = false) (h : Settled s) (mask : BitVec 4) :
    exec (.clearLost mask) s = .next (s.clearLost mask) :=
  hostAccess_run hr h fun t => t.clearLost mask

theorem clearLost_get (s : State) (mask : BitVec 4) (l : EventLevel) :
    (s.clearLost mask).lostMask[l] = (s.lostMask[l] && !mask.getLsbD l.val) := by
  fin_cases l <;> rfl

/-- Settles O35: the write changes the lost mask alone, flag by flag. -/
theorem clearLostClearsNamed : Obligations.ClearLostClearsNamed :=
  fun s mask running settled => ⟨_, exec_clearLost running settled mask, clearLost_get s mask⟩

end Sys2Proof.Machine

/-! The output unit's host side: a write to OUTPUTS (R144). -/

namespace Sys2Proof.Machine

/-- R144: what a write of `v` to OUTPUTS makes of output `o` when it stands at `x`. -/
def Output.written (v : Byte) (o : OutputNum) (x : Output) : Output :=
  if v.getLsbD (o.val + 4) then { x with level := if v.getLsbD o.val then .high else .low, deadline := none } else x

theorem Output.written_selected {v : Byte} {o : OutputNum} (h : v.getLsbD (o.val + 4) = true) (x : Output) :
    x.written v o = { x with level := if v.getLsbD o.val then .high else .low, deadline := none } :=
  if_pos h

theorem Output.written_unselected {v : Byte} {o : OutputNum} (h : ¬ v.getLsbD (o.val + 4) = true) (x : Output) :
    x.written v o = x :=
  if_neg h

/-- R144: the round of the write at one output is a change of that output, which is none when it is not selected. -/
theorem modOutput_written (s : State) (v : Byte) (o : OutputNum) :
    s.modOutput o (Output.written v o) =
      if bitAt v (o.val + 4) then
        s.modOutput o fun x => { x with level := if bitAt v o.val then .high else .low, deadline := none }
      else s := by
  by_cases selected : v.getLsbD (o.val + 4) = true
  · rw [bitAt, if_pos selected, funext (Output.written_selected selected)]
    rfl
  · rw [bitAt, if_neg selected, modOutput_eq_self s (Output.written_unselected selected _)]

theorem writeOutputs_eq (s : State) (v : Byte) :
    s.writeOutputs v = { s with outputs := Vector.ofFn fun o => (s.output o).written v o } := by
  have rounds : s.writeOutputs v = forEach allOutputs (fun t o => t.modOutput o (Output.written v o)) s := by
    simp only [modOutput_written, State.writeOutputs]
  rw [rounds, forEach_modOutput]

theorem exec_outputsWrite {s : State} (hr : s.inReset = false) (h : Settled s) (v : Byte) :
    exec (.outputsWrite v) s = .next (s.writeOutputs v) :=
  hostAccess_run hr h fun t => t.writeOutputs v

/-- Settles O36: the write goes through the outputs one by one, and each round changes its own output alone. -/
theorem outputsWriteDrivesNamed : Obligations.OutputsWriteDrivesNamed := by
  intro s v running settled
  rw [exec_outputsWrite running settled, writeOutputs_eq]
  rfl

end Sys2Proof.Machine

/-! The table commands but DEFINE (chapter 8), and the host's staging window (R147–R150). -/

namespace Sys2Proof.Machine

/-! ## A command at its grant (R151) -/

section Taken

variable {s u : State} {code : Byte} {r : Result} {work : State → Taken}

/-- R151: a granted command leaves what its judging answers, with its code and result recorded. -/
theorem exec_granted {c : Instr} (granted : CommandGranted s code)
    (meaning : exec c s = .next (s.takeCommand code work)) (judged : work s = (r, u)) :
    exec c s = .next (u.recorded code r) := by
  rw [meaning, takeCommand_eq granted, judged]

theorem unlessCompacting_busy {work : Taken} (h : s.compacting = true) : unlessCompacting s work = (.busy, s) :=
  if_pos h

theorem unlessCompacting_idle {work : Taken} (h : s.compacting = false) : unlessCompacting s work = work :=
  if_neg (by simp [h])

end Taken

/-! ## ARM, DISARM, DELETE and READ_BACK by the state of the slot (R156, R157, R159, R160) -/

section Work

variable {s : State} {n : PatternNum}

section Free

variable (free : s.slot n = .free)

include free

theorem armWork_free : s.armWork n = (.badState, s) := by simp [State.armWork, free]

theorem disarmWork_free : s.disarmWork n = (.badState, s) := by simp [State.disarmWork, free]

theorem deleteWork_free : s.deleteWork n = (.ok, s) := by simp [State.deleteWork, free]

theorem readBackWork_free : s.readBackWork n = (.badState, s) := by simp [State.readBackWork, free, Slot.record?]

end Free

variable {r : Stored}

section Disarmed

variable (disarmed : s.slot n = .disarmed r)

include disarmed

theorem armWork_disarmed : s.armWork n = (.ok, s.setSlot n (.armed r)) := by simp [State.armWork, disarmed]

theorem disarmWork_disarmed : s.disarmWork n = (.ok, s) := by simp [State.disarmWork, disarmed]

theorem deleteWork_disarmed : s.deleteWork n = (.ok, s.setSlot n .free) := by simp [State.deleteWork, disarmed]

end Disarmed

section Armed

variable (armed : s.slot n = .armed r)

include armed

theorem armWork_armed : s.armWork n = (.ok, s) := by simp [State.armWork, armed]

/-- R23, R157: the pattern leaves ARMED, and its candidates and lockout records go with it. -/
theorem disarmWork_armed :
    s.disarmWork n = (.ok,
      { s.setSlot n (.disarmed r) with
        chans := Vector.ofFn fun ch =>
          { s.chan ch with
            candidates := (s.chan ch).candidates.filter fun c => c.pattern ≠ n
            lockouts := (s.chan ch).lockouts.filter fun l => l.pattern ≠ n } }) := by
  have left : s.disarmWork n = (.ok, s.leaveArmed n) := by simp [State.disarmWork, armed]
  rw [left, leaveArmed_eq, armed]
  rfl

theorem deleteWork_armed : s.deleteWork n = (.badState, s) := by simp [State.deleteWork, armed]

end Armed

theorem readBackWork_stored (stored : (s.slot n).record? = some r) :
    s.readBackWork n = (.ok, { s with staging := encodeRecord r.pattern r.start (s.runElements r) }) := by
  simp [State.readBackWork, stored]

end Work

/-- Settles O39: past BAD_SLOT, each command is its table's row for the state of the slot. -/
theorem slotCommands : Obligations.SlotCommands := by
  intro s n named
  refine ⟨fun granted => ?_, fun granted => ?_, fun granted idle => ?_⟩
  · have judged : s.judgeArm = s.armWork n := withSlot_eq named _
    exact ⟨fun free => exec_granted granted rfl (judged.trans (armWork_free free)),
      fun r disarmed => exec_granted granted rfl (judged.trans (armWork_disarmed disarmed)),
      fun r armed => exec_granted granted rfl (judged.trans (armWork_armed armed))⟩
  · have judged : s.judgeDisarm = s.disarmWork n := withSlot_eq named _
    exact ⟨fun free => exec_granted granted rfl (judged.trans (disarmWork_free free)),
      fun r disarmed => exec_granted granted rfl (judged.trans (disarmWork_disarmed disarmed)),
      fun r armed => exec_granted granted rfl (judged.trans (disarmWork_armed armed))⟩
  · have judged : s.judgeDelete = s.deleteWork n := (unlessCompacting_idle idle).trans (withSlot_eq named _)
    exact ⟨fun free => exec_granted granted rfl (judged.trans (deleteWork_free free)),
      fun r disarmed => exec_granted granted rfl (judged.trans (deleteWork_disarmed disarmed)),
      fun r armed => exec_granted granted rfl (judged.trans (deleteWork_armed armed))⟩

/-! ## READ_BACK, CLEAR_LOCKOUT, COMPACT and a code that names no command (R160, R161, R165, R202) -/

/-- R82: the removal channel by channel as one update. -/
theorem removeLockouts_eq (s : State) (n : PatternNum) :
    s.removeLockouts n =
      { s with
        chans := Vector.ofFn fun ch =>
          { s.chan ch with lockouts := (s.chan ch).lockouts.filter fun l => l.pattern ≠ n } } := by
  rw [State.removeLockouts,
    forEach_modChan s fun _ c => { c with lockouts := c.lockouts.filter fun l => l.pattern != n }]
  simp only [bne, beq_eq_decide, ne_eq, decide_not]

theorem namesNoCommand_iff (v : Byte) : namesNoCommand v = true ↔ v = 0 ∨ 8 < v.toNat := by
  simp [namesNoCommand]

/-- R202: the meaning of a pending code that names no command. -/
theorem exec_badCommand {s : State} {v : Byte} (pending : s.pendingCommand = some v) (unnamed : v = 0 ∨ 8 < v.toNat) :
    exec .badCommand s = .next (s.takeCommand v State.judgeUnknown) := by
  simp [exec, execBadCommand, pending, (namesNoCommand_iff v).mpr unnamed]

/-- Settles O40: the checks of R151 first, BUSY before BAD_SLOT, and then each command's work. -/
theorem otherTableCommands : Obligations.OtherTableCommands := by
  intro s
  refine ⟨fun n named => ⟨fun granted free => ?_, fun r granted stored => ?_, fun granted => ?_⟩,
    fun unnamed => ⟨fun granted => ?_, fun granted => ?_, fun granted idle => ?_, fun granted => ?_, fun granted => ?_⟩,
    fun granted busy => ?_, fun granted busy => ?_, fun granted idle => ?_, fun v unnamed granted => ?_⟩
  · exact exec_granted granted rfl ((withSlot_eq named _).trans (readBackWork_free free))
  · exact exec_granted granted rfl ((withSlot_eq named _).trans (readBackWork_stored stored))
  · rw [← removeLockouts_eq]
    exact exec_granted granted rfl (withSlot_eq named _)
  · exact exec_granted granted rfl (withSlot_bad unnamed _)
  · exact exec_granted granted rfl (withSlot_bad unnamed _)
  · exact exec_granted granted rfl ((unlessCompacting_idle idle).trans (withSlot_bad unnamed _))
  · exact exec_granted granted rfl (withSlot_bad unnamed _)
  · exact exec_granted granted rfl (withSlot_bad unnamed _)
  · exact exec_granted granted rfl (unlessCompacting_busy busy)
  · exact exec_granted granted rfl (unlessCompacting_busy busy)
  · exact exec_granted granted rfl (unlessCompacting_idle idle)
  · exact exec_granted granted (exec_badCommand granted.2 unnamed) rfl

/-! ## RUNTIME_RESET (R162) -/

/-- R133: with no event waiting, neither line is asserted. -/
theorem refreshLines_empty {s : State} (empty : s.eventQueue = []) :
    s.refreshLines = { s with intLine := false, wakeLine := false } := by
  simp [State.refreshLines, State.intCondition, State.wakeCondition, empty]

/-- R162: the three loops, over the channels, the assemblers and the outputs, as one update. -/
theorem runtimeReset_eq (s : State) :
    s.runtimeReset =
      State.refreshLines
        { s with
          chans := Vector.ofFn fun ch => (s.chan ch).runtimeReset
          serial := Vector.ofFn fun i => { s.ser i with assembler := .clear }
          outputs := Vector.ofFn fun o => { s.output o with level := .low, deadline := none }
          eventQueue := [], presented := none, lostMask := Vector.replicate 4 false, eventSeq := 0 } := by
  have assemblers (t : State) : forEach [0, 1, 2] State.discardPrefix t =
      { t with serial := Vector.ofFn fun i => { t.ser i with assembler := .clear } } :=
    forEach_modSer t fun _ x => { x with assembler := .clear }
  rw [State.runtimeReset, forEach_modChan s fun _ => Chan.runtimeReset, assemblers,
    forEach_modOutput _ fun _ x => { x with level := .low, deadline := none }]
  rfl

/-- Settles O41: the reset clears the queue, so the refresh that ends it deasserts both lines. -/
theorem runtimeResetKeepsProgramming : Obligations.RuntimeResetKeepsProgramming := by
  intro s granted
  have judged : s.judgeRuntimeReset = (.ok, s.runtimeReset) := rfl
  rw [runtimeReset_eq, refreshLines_empty rfl] at judged
  exact exec_granted granted rfl judged

/-! ## OPERAND, STAGE_ADDR and STAGE_DATA (R147–R150) -/

section Window

variable {s : State} (v : Byte)

section Idle

variable (idle : s.pendingCommand = none)

include idle

theorem writeOperand_idle : s.writeOperand v = { s with operand := v } := by simp [State.writeOperand, idle]

theorem writeStageAddr_idle {a : Fin 58} (named : a.val = v.toNat) : s.writeStageAddr v = { s with stageAddr := a } := by
  simp [State.writeStageAddr, idle, ← named]

theorem writeStageAddr_beyond (beyond : 58 ≤ v.toNat) : s.writeStageAddr v = s := by
  simp [State.writeStageAddr, idle, beyond]

theorem readStageData_idle : s.readStageData = { s with stageAddr := s.stageAddr + 1 } := by
  simp [State.readStageData, idle]

theorem writeStageData_frame :
    s.writeStageData v = { s with staging := (s.writeStageData v).staging, stageAddr := s.stageAddr + 1 } := by
  simp [State.writeStageData, idle]

/-- R147: the byte goes to the address, unless that is 8 or 9, which hold a start. -/
theorem writeStageData_staging (a : Fin 58) :
    (s.writeStageData v).staging[a] = if a = s.stageAddr ∧ a ≠ 8 ∧ a ≠ 9 then v else s.staging[a] := by
  have written : (s.writeStageData v).staging =
      if s.stageAddr = 8 ∨ s.stageAddr = 9 then s.staging else s.staging.set s.stageAddr.val v s.stageAddr.isLt := by
    simp [State.writeStageData, idle]
  rw [written]
  by_cases start : s.stageAddr = 8 ∨ s.stageAddr = 9
  · have unwritten : ¬(a = s.stageAddr ∧ a ≠ 8 ∧ a ≠ 9) := by
      rintro ⟨rfl, not8, not9⟩
      exact start.elim not8 not9
    rw [if_pos start, if_neg unwritten]
  · rw [if_neg start]
    by_cases here : a = s.stageAddr
    · subst here
      rw [if_pos ⟨rfl, not_or.mp start⟩]
      exact Vector.getElem_set_self _
    · rw [if_neg fun taken => here taken.1]
      exact Vector.getElem_set_ne _ _ fun same => here (Fin.ext same.symm)

end Idle

section Busy

variable (busy : s.pendingCommand ≠ none)

include busy

theorem writeOperand_busy : s.writeOperand v = s := if_pos (Option.isSome_iff_ne_none.mpr busy)

theorem writeCommand_busy : s.writeCommand v = s := if_pos (Option.isSome_iff_ne_none.mpr busy)

theorem writeStageAddr_busy : s.writeStageAddr v = s := if_pos (Option.isSome_iff_ne_none.mpr busy)

theorem writeStageData_busy : s.writeStageData v = s := if_pos (Option.isSome_iff_ne_none.mpr busy)

theorem readStageData_busy : s.readStageData = s := if_pos (Option.isSome_iff_ne_none.mpr busy)

end Busy

end Window

/-- R147: the address after 57 is 0. -/
theorem stageAddr_succ (a : Fin 58) : a + 1 = if a = 57 then 0 else a + 1 := by
  split
  next last => rw [last]; rfl
  next => rfl

section Accesses

variable {s : State} (running : s.inReset = false) (settled : Settled s) (v : Byte)

include running settled

theorem exec_operandWrite : exec (.operandWrite v) s = .next (s.writeOperand v) :=
  hostAccess_run running settled fun t => t.writeOperand v

theorem exec_commandWrite : exec (.commandWrite v) s = .next (s.writeCommand v) :=
  hostAccess_run running settled fun t => t.writeCommand v

theorem exec_stageAddrWrite : exec (.stageAddrWrite v) s = .next (s.writeStageAddr v) :=
  hostAccess_run running settled fun t => t.writeStageAddr v

theorem exec_stageDataWrite : exec (.stageDataWrite v) s = .next (s.writeStageData v) :=
  hostAccess_run running settled fun t => t.writeStageData v

theorem exec_stageDataRead : exec .stageDataRead s = .next { s.readStageData with dataOut := s.staging[s.stageAddr] } :=
  hostRead_run running settled State.stageDataByte State.readStageData

end Accesses

/-- Settles O43: each access with no command pending and with one pending. -/
theorem stagingWindow : Obligations.StagingWindow := by
  intro s v running settled
  refine ⟨fun idle => ?_, fun busy => ⟨?_, ?_⟩⟩
  · rw [exec_operandWrite running settled, exec_stageAddrWrite running settled, exec_stageDataWrite running settled,
      exec_stageDataRead running settled, writeOperand_idle v idle, readStageData_idle idle, ← stageAddr_succ]
    exact ⟨rfl, fun a named => congrArg _ (writeStageAddr_idle v idle named),
      fun beyond => congrArg _ (writeStageAddr_beyond v idle beyond),
      ⟨_, rfl, writeStageData_frame v idle, writeStageData_staging v idle⟩, rfl⟩
  · simp only [List.forall_mem_cons, List.not_mem_nil, false_implies, implies_true, and_true]
    rw [exec_operandWrite running settled, exec_stageAddrWrite running settled, exec_stageDataWrite running settled,
      exec_commandWrite running settled, writeOperand_busy v busy, writeStageAddr_busy v busy,
      writeStageData_busy v busy, writeCommand_busy v busy]
    exact ⟨rfl, rfl, rfl, rfl⟩
  · rw [exec_stageDataRead running settled, readStageData_busy busy]

end Sys2Proof.Machine

/-! A write to LINE_SETTINGS (R175, R178). -/

namespace Sys2Proof.Machine

/-! ## The fields of a LINE_SETTINGS byte -/

/-- R175: the three codes that name a parity. -/
theorem parityOf?_code {code : Nat} {p : Parity} (named : (code, p) ∈ [(0, Parity.off), (1, .even), (2, .odd)]) :
    parityOf? code = some p := by
  simp only [List.mem_cons, Prod.mk.injEq, List.not_mem_nil, or_false] at named
  obtain ⟨rfl, rfl⟩ | ⟨rfl, rfl⟩ | ⟨rfl, rfl⟩ := named <;> rfl

theorem baudOf_eq {v : Byte} {b : Fin 8} (h : b.val = v.toNat % 8) : baudOf v = b := by
  ext
  simp [baudOf, fieldAt, h]

/-! ## The write, by the parity code and the settings in force -/

section Write

variable {s : State} {i : SerialChannel} {v : Byte}

/-- R175: parity code 3 names no parity. -/
theorem writeLineSettings_unnamed (h : v.toNat / 8 % 4 = 3) : s.writeLineSettings i v = s := by
  have code : fieldAt v 3 2 = 3 := h
  simp [State.writeLineSettings, code, parityOf?]

section Named

variable {b : Fin 8} {p : Parity} (baud : b.val = v.toNat % 8)
  (named : (v.toNat / 8 % 4, p) ∈ [(0, Parity.off), (1, .even), (2, .odd)])

include baud named

theorem writeLineSettings_named :
    s.writeLineSettings i v =
      if (s.ser i).baud = b ∧ (s.ser i).parity = p then s else s.modSer i fun x => x.resettle b p := by
  have parity : parityOf? (fieldAt v 3 2) = some p := parityOf?_code named
  simp only [State.writeLineSettings, parity, baudOf_eq baud]

theorem writeLineSettings_inForce (same : (s.ser i).baud = b ∧ (s.ser i).parity = p) : s.writeLineSettings i v = s := by
  rw [writeLineSettings_named baud named, if_pos same]

/-- R178: a change discards the frame in progress. -/
theorem writeLineSettings_changed (change : ¬((s.ser i).baud = b ∧ (s.ser i).parity = p)) :
    s.writeLineSettings i v = s.modSer i fun x => x.resettle b p := by
  rw [writeLineSettings_named baud named, if_neg change]

end Named

theorem exec_lineSettingsWrite (hr : s.inReset = false) (h : Settled s) (target : s.configAddr.val = 0x04 + i.val) :
    exec (.lineSettingsWrite v) s = .next (s.writeLineSettings i v).advanceConfig := by
  have meaning : exec (.lineSettingsWrite v) s = execLineSettingsWrite v s := rfl
  rw [meaning, execLineSettingsWrite, hostAccess_run hr h, configTarget_lineSettings _ _ target]

end Write

/-- Settles O52: parity code 3 and the settings in force leave all but CONFIG_ADDR; a change resettles the receiver. -/
theorem lineSettingsWrites : Obligations.LineSettingsWrites := by
  intro s i v running settled target
  rw [exec_lineSettingsWrite running settled target]
  refine ⟨fun unnamed => ?_, fun b p baud named => ⟨fun same => ?_, fun change => ?_⟩⟩
  · rw [writeLineSettings_unnamed unnamed]
    rfl
  · rw [writeLineSettings_inForce baud named same]
    rfl
  · rw [writeLineSettings_changed baud named change]
    rfl

end Sys2Proof.Machine

/-! What the direct registers read (R192–R202): each byte by its flags and fields. -/

namespace Sys2Proof.Machine

/-! ## Bytes made of flags and fields -/

theorem byteOf_toNat {n : Nat} (h : n < 256) : (byteOf n).toNat = n := by
  rw [byteOf, BitVec.toNat_ofNat, Nat.mod_eq_of_lt h]

theorem byteOf_val {n : Nat} (i : Fin n) (h : n ≤ 256) : (byteOf i.val).toNat = i.val :=
  byteOf_toNat (i.isLt.trans_le h)

theorem flagBit_eq (f : Bool) (i : Nat) : flagBit f i = 2 ^ i * f.toNat := by
  cases f <;> simp [flagBit]

/-- Flags shown at bits 0, 1, 2, … make the number with those bits. -/
theorem sum_flagBit {n : Nat} (flags : Fin n → Bool) : ∑ i, flagBit (flags i) i.val = Nat.ofBits flags := by
  induction n with
  | zero => rfl
  | succ n ih =>
    have shifted (i : Fin n) : flagBit (flags i.succ) i.succ.val = 2 * flagBit (flags i.succ) i.val := by
      rw [flagBit_eq, flagBit_eq, Fin.val_succ, Nat.pow_succ', Nat.mul_assoc]
    have first : flagBit (flags 0) (0 : Fin (n + 1)).val = (flags 0).toNat := (flagBit_eq _ _).trans (Nat.one_mul _)
    have rest : ∑ i : Fin n, flagBit (flags i.succ) i.val = Nat.ofBits (flags ∘ Fin.succ) := ih _
    simp only [Fin.sum_univ_succ, shifted, ← Finset.mul_sum]
    rw [first, rest, Nat.ofBits_succ, Nat.add_comm]

/-- In a byte given as a number, the bit that makes a flag. -/
theorem getLsbD_of_bit {b : Byte} {i : Nat} {f : Bool} (h : b.toNat / 2 ^ i % 2 = f.toNat) : b.getLsbD i = f := by
  rw [BitVec.getLsbD, Nat.testBit_eq_decide_div_mod_eq, h]
  cases f <;> rfl

section Flags

variable {n : Nat} (flags : Fin n → Bool) (fits : n ≤ 8)

include fits

theorem byteOf_ofBits_bit (i : Fin n) : (byteOf (Nat.ofBits flags)).getLsbD i.val = flags i := by
  have inByte : i.val < 8 := i.isLt.trans_le fits
  rw [byteOf, BitVec.getLsbD_ofNat, Nat.testBit_ofBits_lt flags i.val i.isLt, decide_eq_true inByte, Bool.true_and]

theorem byteOf_ofBits_lt : (byteOf (Nat.ofBits flags)).toNat < 2 ^ n := by
  have small : Nat.ofBits flags < 2 ^ n := Nat.ofBits_lt_two_pow flags
  rwa [byteOf_toNat (small.trans_le (Nat.pow_le_pow_right (by decide) fits))]

end Flags

/-- R116: the LO and HI registers of a stamp together. -/
theorem loByte_hiByte (h : Half) : (loByte h).toNat + 256 * (hiByte h).toNat = h.toNat := by
  have wide := h.isLt
  simp only [loByte, hiByte, byteOf, BitVec.toNat_ofNat]
  omega

/-! ## STATUS, LOST and OUTPUTS (R196, R197) -/

section Part

variable (s : State)

/-- The indications of STATUS, from bit 0 up. -/
def State.indications (s : State) : Fin 5 → Bool :=
  ![s.compacting, s.pendingCommand.isSome, !s.eventQueue.isEmpty, s.intLine, s.wakeLine]

theorem statusByte_eq : s.statusByte = byteOf (Nat.ofBits s.indications) := by
  rw [← sum_flagBit, Fin.sum_univ_five]
  rfl

theorem statusByte_lt : s.statusByte.toNat < 32 := by
  rw [statusByte_eq]
  exact byteOf_ofBits_lt s.indications (by decide)

theorem statusByte_bit (i : Fin 5) : s.statusByte.getLsbD i.val = s.indications i := by
  rw [statusByte_eq, byteOf_ofBits_bit s.indications (by decide)]

theorem lostByte_eq : s.lostByte = byteOf (Nat.ofBits fun l : EventLevel => s.lostMask[l]) := by
  rw [← sum_flagBit, Fin.sum_univ_four]
  rfl

theorem lostByte_lt : s.lostByte.toNat < 16 := by
  rw [lostByte_eq]
  exact byteOf_ofBits_lt _ (by decide)

theorem lostByte_bit (l : EventLevel) : s.lostByte.getLsbD l.val = s.lostMask[l] := by
  rw [lostByte_eq, byteOf_ofBits_bit _ (by decide)]

/-- The bits of OUTPUTS: the four levels, then the four pulses. -/
def State.outputBits (s : State) : Fin (4 + 4) → Bool :=
  Fin.addCases (fun o => (s.output o).level == .high) fun o => (s.output o).deadline.isSome

theorem outputBits_level (o : OutputNum) : s.outputBits (o.castAdd 4) = ((s.output o).level == .high) :=
  Fin.addCases_left o

theorem outputBits_pulsing (o : OutputNum) : s.outputBits (o.natAdd 4) = (s.output o).deadline.isSome :=
  Fin.addCases_right o

theorem outputsByte_eq : s.outputsByte = byteOf (Nat.ofBits s.outputBits) := by
  rw [← sum_flagBit, Fin.sum_univ_add, ← Finset.sum_add_distrib, Fin.sum_univ_def]
  simp only [outputBits_level, outputBits_pulsing, Fin.val_castAdd, Fin.val_natAdd, Nat.add_comm 4]
  rfl

theorem outputsByte_level (o : OutputNum) : s.outputsByte.getLsbD o.val = ((s.output o).level == .high) := by
  rw [outputsByte_eq]
  exact (byteOf_ofBits_bit s.outputBits (by decide) (o.castAdd 4)).trans (outputBits_level s o)

theorem outputsByte_pulsing (o : OutputNum) : s.outputsByte.getLsbD (o.val + 4) = (s.output o).deadline.isSome := by
  have place : o.val + 4 = (o.natAdd 4).val := Nat.add_comm ..
  rw [outputsByte_eq, place]
  exact (byteOf_ofBits_bit s.outputBits (by decide) (o.natAdd 4)).trans (outputBits_pulsing s o)

end Part

/-! ## The channel selected (R196) -/

section Channel

variable {s : State} {ch : Channel} (room : (s.chan ch).candidates.length ≤ 12)

include room

theorem chanStatusByte_toNat :
    (s.chanStatusByte ch).toNat = (s.chan ch).lost.toNat + 2 * (s.chan ch).injectRefused.toNat
      + 4 * (s.chan ch).tail.isSome.toNat + 8 * (s.chan ch).overrunPending.toNat
      + 16 * (s.chan ch).candidates.length := by
  have lost := (s.chan ch).lost.toNat_le
  have refused := (s.chan ch).injectRefused.toNat_le
  have tail := (s.chan ch).tail.isSome.toNat_le
  have overrun := (s.chan ch).overrunPending.toNat_le
  simp only [State.chanStatusByte, flagBit_eq]
  rw [byteOf_toNat] <;> omega

theorem chanStatusByte_shows :
    (s.chanStatusByte ch).getLsbD 0 = (s.chan ch).lost
      ∧ (s.chanStatusByte ch).getLsbD 1 = (s.chan ch).injectRefused
      ∧ (s.chanStatusByte ch).getLsbD 2 = (s.chan ch).tail.isSome
      ∧ (s.chanStatusByte ch).getLsbD 3 = (s.chan ch).overrunPending
      ∧ (s.chanStatusByte ch).toNat / 16 = (s.chan ch).candidates.length := by
  have byte := chanStatusByte_toNat room
  have lost := (s.chan ch).lost.toNat_le
  have refused := (s.chan ch).injectRefused.toNat_le
  have tail := (s.chan ch).tail.isSome.toNat_le
  have overrun := (s.chan ch).overrunPending.toNat_le
  exact ⟨getLsbD_of_bit (by omega), getLsbD_of_bit (by omega), getLsbD_of_bit (by omega), getLsbD_of_bit (by omega),
    by omega⟩

end Channel

/-- R91: HELD_COUNT counts entries of a queue that a byte can count. -/
theorem heldCount_lt {s : State} {ch : Channel} (room : (s.chan ch).queue.length ≤ 32) : s.heldCount ch < 256 :=
  (List.length_filter_le _ _).trans_lt (by omega)

/-! ## The take latch (R198, R200) -/

section Latch

theorem symbolKindCode_lt (k : SymbolKind) : symbolKindCode k < 4 := by cases k <;> decide

theorem extensionCode_lt (x : Extension) : extensionCode x < 4 := by cases x <;> decide

theorem errorTypeCode_lt (t : Option ErrorType) : errorTypeCode t < 4 := by
  obtain _ | t := t
  · decide
  · cases t <;> decide

variable (x : Symbol)

theorem latchFlags_toNat :
    (latchFlags x).toNat = 1 + 2 * symbolKindCode x.kind + 8 * extensionCode x.extension + 32 * x.release.toNat
      + 64 * errorTypeCode x.errorType := by
  have kind := symbolKindCode_lt x.kind
  have extension := extensionCode_lt x.extension
  have error := errorTypeCode_lt x.errorType
  have release := x.release.toNat_le
  simp only [latchFlags, flagBit_eq]
  rw [byteOf_toNat] <;> omega

theorem latchFlags_shows :
    (latchFlags x).getLsbD 0 = true ∧ (latchFlags x).getLsbD 5 = x.release
      ∧ (latchFlags x).toNat / 2 % 4 = symbolKindCode x.kind
      ∧ (latchFlags x).toNat / 8 % 4 = extensionCode x.extension
      ∧ (latchFlags x).toNat / 64 = errorTypeCode x.errorType := by
  have byte := latchFlags_toNat x
  have kind := symbolKindCode_lt x.kind
  have extension := extensionCode_lt x.extension
  have release := x.release.toNat_le
  exact ⟨getLsbD_of_bit (by rw [Bool.toNat_true]; omega), getLsbD_of_bit (by omega), by omega, by omega, by omega⟩

variable {s : State} {x}

theorem latchByte_some (h : (s.chan s.chanSel).latch = some x) (f : Symbol → Byte) : s.latchByte f = f x := by
  simp [State.latchByte, h]

theorem registerByte_latch_some (h : (s.chan s.chanSel).latch = some x) :
    s.registerByte 0x18 = x.code ∧ s.registerByte 0x19 = latchFlags x
      ∧ s.registerByte 0x1A = loByte (lowHalf x.stamp) ∧ s.registerByte 0x1B = hiByte (lowHalf x.stamp) :=
  ⟨latchByte_some h _, latchByte_some h _, latchByte_some h _, latchByte_some h _⟩

theorem latchByte_none (h : (s.chan s.chanSel).latch = none) (f : Symbol → Byte) : s.latchByte f = 0 := by
  simp [State.latchByte, h]

/-- R200: the latch registers while the latch is not valid. -/
theorem registerByte_latch_none (h : (s.chan s.chanSel).latch = none) {a : Fin 32}
    (latchRegister : a.val ∈ [0x18, 0x19, 0x1A, 0x1B]) : s.registerByte a = 0 := by
  simp only [List.mem_cons, List.not_mem_nil, or_false] at latchRegister
  obtain here | here | here | here := latchRegister <;> simp only [State.registerByte, here, latchByte_none h]

end Latch

/-! ## The presented latch (R199, R200) -/

section Event

theorem EventKind.code_lt (k : EventKind) : k.code < 8 := by cases k <;> decide

variable (e : EventRecord)

theorem eventHead_toNat :
    (eventHead e).toNat = 1 + 2 * e.kind.code + 16 * e.level.val + 64 * e.channel.isSome.toNat
      + 128 * e.pattern.isSome.toNat := by
  have kind := e.kind.code_lt
  have channel := e.channel.isSome.toNat_le
  have pattern := e.pattern.isSome.toNat_le
  simp only [eventHead, flagBit_eq]
  rw [byteOf_toNat] <;> omega

theorem eventHead_shows :
    (eventHead e).getLsbD 0 = true ∧ (eventHead e).toNat / 2 % 8 = e.kind.code
      ∧ (eventHead e).toNat / 16 % 4 = e.level.val ∧ (eventHead e).getLsbD 6 = e.channel.isSome
      ∧ (eventHead e).getLsbD 7 = e.pattern.isSome := by
  have byte := eventHead_toNat e
  have kind := e.kind.code_lt
  have channel := e.channel.isSome.toNat_le
  have pattern := e.pattern.isSome.toNat_le
  exact ⟨getLsbD_of_bit (by rw [Bool.toNat_true]; omega), by omega, by omega, getLsbD_of_bit (by omega),
    getLsbD_of_bit (by omega)⟩

/-- R199: a number that an event may lack, 0 where it does. -/
theorem byteOf_optional {n : Nat} (field : Option (Fin n)) (fits : n ≤ 256) :
    ((field.map fun i => byteOf i.val).getD 0).toNat = (field.map Fin.val).getD 0 := by
  cases field with
  | none => rfl
  | some i => exact byteOf_val i fits

variable {s : State} {e}

theorem eventByte_some (h : s.presented = some e) (f : EventRecord → Byte) : s.eventByte f = f e := by
  simp [State.eventByte, h]

theorem registerByte_event_some (h : s.presented = some e) :
    s.registerByte 0x0E = eventHead e ∧ s.registerByte 0x0F = e.seq
      ∧ s.registerByte 0x10 = (e.channel.map fun c => byteOf c.val).getD 0
      ∧ s.registerByte 0x11 = (e.pattern.map fun n => byteOf n.val).getD 0
      ∧ s.registerByte 0x12 = e.tag.getD 0
      ∧ s.registerByte 0x13 = loByte e.stamp ∧ s.registerByte 0x14 = hiByte e.stamp :=
  ⟨eventByte_some h _, eventByte_some h _, eventByte_some h _, eventByte_some h _, eventByte_some h _,
    eventByte_some h _, eventByte_some h _⟩

theorem eventByte_none (h : s.presented = none) (f : EventRecord → Byte) : s.eventByte f = 0 := by
  simp [State.eventByte, h]

/-- R200: the event registers while the presented latch is not valid. -/
theorem registerByte_event_none (h : s.presented = none) {a : Fin 32} (low : 0x0E ≤ a.val) (high : a.val ≤ 0x14) :
    s.registerByte a = 0 := by
  interval_cases here : a.val <;> simp only [State.registerByte, here, eventByte_none h]

end Event

/-! ## The configuration space and the class maps (R194, R195) -/

section Windows

theorem lineFlags_bit (flags : LineNum → Bool) (n : LineNum) :
    (byteOf (allLines.map fun m => flagBit (flags m) m.val).sum).getLsbD n.val = flags n := by
  have sum : (allLines.map fun m => flagBit (flags m) m.val).sum = Nat.ofBits flags := by
    rw [← sum_flagBit, Fin.sum_univ_def]
    rfl
  rw [sum, byteOf_ofBits_bit flags le_rfl]

theorem lineSettingsByte_toNat (baud : Fin 8) (parity : Parity) :
    (lineSettingsByte baud parity).toNat = baud.val + 8 * parityCode parity := by
  have code : parityCode parity ≤ 2 := by cases parity <;> decide
  exact byteOf_toNat (by omega)

theorem intCtrlByte_toNat (enable : Bool) (floor : EventLevel) :
    (intCtrlByte enable floor).toNat = floor.val + if enable then 128 else 0 := by
  have field : flagBit enable 7 = if enable then 128 else 0 := rfl
  rw [intCtrlByte, field, byteOf_toNat]
  split <;> omega

variable (s : State)

theorem configByte_shows (a : Fin 64) : ConfigShows s a (s.configByte a) := by
  refine ⟨fun ch here => ?_, fun i here => ?_, fun i here => ?_, fun ch here => ?_, fun ch here => ?_,
    fun here n => ?_, fun here n => ?_, fun here => ?_, fun k here => ?_, fun here => ?_, fun here => ?_,
    fun o here => ?_, fun here => ?_, fun here => ?_⟩
  · simp only [State.configByte, configTarget_mode a ch here]
    cases (s.chan ch).mode <;> rfl
  · simp only [State.configByte, configTarget_lineSettings a i here, lineSettingsByte_toNat]
    cases (s.ser i).parity <;> rfl
  · simp only [State.configByte, configTarget_prefixWindow a i here]
  · simp only [State.configByte, configTarget_holdLimit a ch here, byteOf]
  · simp only [State.configByte, configTarget_tailWindow a ch here]
  · simp only [State.configByte, configTarget_linesEnable a here]
    exact lineFlags_bit (fun m => (s.line m).enabled) n
  · simp only [State.configByte, configTarget_linesPolarity a here]
    exact lineFlags_bit (fun m => (s.line m).activeHigh) n
  · simp only [State.configByte, configTarget_debounce a here]
  · simp only [State.configByte, configTarget_eventLevel a k here]
    cases s.eventLevels[k] with
    | none => rfl
    | some l => exact byteOf_val l (by decide)
  · simp only [State.configByte, configTarget_intCtrl a here, intCtrlByte_toNat]
  · simp only [State.configByte, configTarget_wakeFloor a here, byteOf_val s.wakeFloor (by decide)]
  · simp only [State.configByte, configTarget_pulseWidth a o here]
  · simp only [State.configByte, configTarget_arbiterMode a here]
    cases s.arbiterMode <;> rfl
  · simp only [State.configByte, configTarget_unused a here]

theorem classDataByte_shows : ClassShows s s.classDataByte := by
  refine ⟨fun unselected => ?_, fun i selected => ?_⟩
  · simp only [State.classDataByte, selectedMap?_none unselected]
  · simp only [State.classDataByte, selectedMap?_of_val selected]
    cases (s.ser i).classMap[s.classAddr.toNat] <;> rfl

end Windows

/-! ## Every direct register -/

/-- Settles O6: the direct registers by the unit they show, each read in the layout of its byte. -/
theorem registersShowState : Obligations.RegistersShowState := by
  intro s running settled ⟨channels, _⟩
  obtain ⟨_, queueRoom, candidateRoom⟩ := channels s.chanSel
  simp only [readRegister_run running settled]
  refine ⟨⟨rfl, rfl, rfl, rfl, ?command, rfl, ?result, byteOf_val _ (by decide), rfl, byteOf_val _ (by decide),
      configByte_shows s s.configAddr, byteOf_val _ (by decide), rfl, classDataByte_shows s,
      byteOf_val _ (by decide)⟩,
    ⟨statusByte_lt s, lostByte_lt s, statusByte_bit s 0, statusByte_bit s 1, ?queued, statusByte_bit s 3,
      statusByte_bit s 4⟩,
    lostByte_bit s, fun o => ⟨?level, outputsByte_pulsing s o⟩, ?channel,
    fun invalid _ => registerByte_event_none invalid, ?event⟩
  case command =>
    show s.lastCommand.getD 0 = _
    cases s.lastCommand <;> rfl
  case result =>
    show resultCode s.result = _
    cases s.result <;> rfl
  case queued =>
    have bit : (s.registerByte 0x01).getLsbD 2 = !s.eventQueue.isEmpty := statusByte_bit s 2
    rw [bit, Bool.not_eq_true', List.isEmpty_eq_false_iff]
  case level =>
    have bit : (s.registerByte 0x15).getLsbD o.val = ((s.output o).level == .high) := outputsByte_level s o
    rw [bit, beq_iff_eq]
  case channel =>
    obtain ⟨lost, refused, tail, overrun, candidates⟩ := chanStatusByte_shows candidateRoom
    refine ⟨byteOf_toNat (by omega), ?held, lost, refused, tail, overrun, candidates,
      fun invalid _ => registerByte_latch_none invalid, fun x valid => ?latch⟩
    case held => exact (byteOf_toNat (heldCount_lt queueRoom)).trans (heldCount_eq s s.chanSel)
    case latch =>
      obtain ⟨code, flags, lo, hi⟩ := registerByte_latch_some valid
      obtain ⟨shown, release, kind, extension, error⟩ := latchFlags_shows x
      rw [code, flags, lo, hi, loByte_hiByte, kind, extension, error]
      refine ⟨rfl, shown, release, ?_, ?_, ?_, BitVec.toNat_ofNat ..⟩
      · cases x.kind <;> rfl
      · cases x.extension <;> rfl
      · obtain _ | error := x.errorType
        · rfl
        · cases error <;> rfl
  case event =>
    intro e valid
    obtain ⟨head, seq, number, slot, tag, lo, hi⟩ := registerByte_event_some valid
    obtain ⟨shown, kind, level, channel, pattern⟩ := eventHead_shows e
    rw [head, seq, number, slot, tag, lo, hi, loByte_hiByte, kind, byteOf_optional e.channel (by decide),
      byteOf_optional e.pattern (by decide)]
    refine ⟨shown, rfl, ?_, level, channel, pattern, ?_, ?_, ?_, rfl⟩
    · cases e.kind <;> rfl
    · cases e.channel <;> rfl
    · cases e.pattern <;> rfl
    · cases e.tag <;> rfl

end Sys2Proof.Machine

/-! The input lines (chapter 10): frames and line changes of the receivers, the line scanner, arrivals at a full FIFO,
and host injection. -/

namespace Sys2Proof.Machine

-- One after another these proofs need fewer threads than the whole text would otherwise hold at once.
set_option Elab.async false

/-! ## The commands with no event of a grant outstanding -/

section Settled

variable {s : State} (settled : Settled s)

include settled

theorem exec_frameReceived (i : SerialChannel) (f : Frame) :
    exec (.frameReceived i f) s = .next (if (s.ser i).reception = .frame then s.endFrame i f else s) := by
  simp only [exec, execFrameReceived, afterGrant_settled settled]

theorem exec_frameStart (i : SerialChannel) :
    exec (.frameStart i) s = .next
      (if (s.ser i).rxMark then
        s.modSer i fun x => { x with rxMark := false, reception := if x.reception = .idle then .frame else x.reception }
      else s) := by
  simp only [exec, execFrameStart, afterGrant_settled settled]

theorem exec_falseStart (i : SerialChannel) :
    exec (.falseStart i) s = .next
      (if (s.ser i).reception = .frame then s.modSer i fun x => { x with rxMark := true, reception := .idle } else s) := by
  simp only [exec, execFalseStart, afterGrant_settled settled]

theorem exec_markWaitEnd (i : SerialChannel) :
    exec (.markWaitEnd i) s = .next
      (if (s.ser i).rxMark then s
      else s.modSer i fun x =>
        { x with rxMark := true, reception := if x.reception = .markWait then .idle else x.reception }) := by
  simp only [exec, execMarkWaitEnd, afterGrant_settled settled]

theorem exec_rawChange (n : LineNum) (level : LineLevel) :
    exec (.rawChange n level) s = .next (if (s.line n).raw = level then s else s.changeRawLevel n level) := by
  simp only [exec, execRawChange, afterGrant_settled settled]

theorem exec_debouncedChange (n : LineNum) : exec (.debouncedChange n) s = .next (s.takeChange n) :=
  afterGrant_settled settled fun t => t.takeChange n

end Settled

theorem exec_inject {s : State} (hr : s.inReset = false) (settled : Settled s) (v : Byte) :
    exec (.inject v) s = .next (s.injectByte s.chanSel v) :=
  hostAccess_run hr settled fun t => t.injectByte t.chanSel v

theorem modSer_congr {s : State} {i : SerialChannel} {f g : Serial → Serial} (h : f (s.ser i) = g (s.ser i)) :
    s.modSer i f = s.modSer i g := congrArg (s.setSer i) h

theorem modLine_congr {s : State} {n : LineNum} {f g : Line → Line} (h : f (s.line n) = g (s.line n)) :
    s.modLine n f = s.modLine n g := congrArg (s.setLine n) h

/-- Settles O9: each change of a receive line is one change of the receiver, by the state of reception. -/
theorem receiverFollowsItsLine : Obligations.ReceiverFollowsItsLine := by
  intro s i settled
  rw [exec_frameStart settled, exec_falseStart settled, exec_markWaitEnd settled]
  refine ⟨fun idle mark => ?_, fun notIdle mark => ?_, fun frame => ?_, fun waits space => ?_, fun notWaits space => ?_⟩
  · rw [if_pos mark]
    exact congrArg _ (modSer_congr (by rw [if_pos idle]))
  · rw [if_pos mark]
    exact congrArg _ (modSer_congr (by rw [if_neg notIdle]))
  · rw [if_pos frame]
  · rw [if_neg (by simp [space])]
    exact congrArg _ (modSer_congr (by rw [if_pos waits]))
  · rw [if_neg (by simp [space])]
    exact congrArg _ (modSer_congr (by rw [if_neg notWaits]))

/-! ## Arrivals (R182, R183) -/

section Arrive

variable {s : State} {ch : Channel} {k : RawKind}

theorem arrive_room (room : (s.chan ch).fifo.length < 8) :
    s.arrive ch k = s.modChan ch fun c => { c with fifo := c.fifo ++ [⟨k, s.timeBase⟩] } :=
  if_pos room

theorem arrive_lost (full : 8 ≤ (s.chan ch).fifo.length) (pending : (s.chan ch).overrunPending = true) :
    s.arrive ch k = s := by
  rw [State.arrive, if_neg (Nat.not_lt.mpr full), if_pos pending]

theorem arrive_overruns (full : 8 ≤ (s.chan ch).fifo.length) (clear : (s.chan ch).overrunPending = false) :
    s.arrive ch k = State.offer (s.modChan ch fun c => { c with overrunPending := true })
      ⟨.inputOverrun, some ch, none, none, s.timeBase⟩ := by
  rw [State.arrive, if_neg (Nat.not_lt.mpr full), if_neg (by simp [clear])]
  rfl

end Arrive

/-- Settles O7: R176's table as one conditional, and the entry arrives in a FIFO with room. -/
theorem frameMakesItsEntry : Obligations.FrameMakesItsEntry := by
  intro s i f settled frame room p k
  have judged : judgeFrame f p = k := judgeFrame_eq f p
  rw [exec_frameReceived settled, if_pos frame, State.endFrame, judged, arrive_room (by exact room)]
  rfl

/-! ## The line scanner (R179, R180) -/

section Scanner

variable {s : State} {n : LineNum} {level : LineLevel}

theorem changeRawLevel_disabled (disabled : (s.line n).debounced = none) :
    s.changeRawLevel n level = s.modLine n fun l => { l with raw := level } := by
  simp only [State.changeRawLevel, disabled]

theorem changeRawLevel_enabled {d : LineLevel} (enabled : (s.line n).debounced = some d) :
    s.changeRawLevel n level =
      if s.debounce = 0 then State.takeChange (s.modLine n fun l => l.changeRaw d level s.timeBase) n
      else s.modLine n fun l => l.changeRaw d level s.timeBase := by
  simp only [State.changeRawLevel, enabled]

/-- R180: a change that is due becomes the debounced level and is reported. -/
theorem takeChange_due {p : PendingChange} (pending : (s.line n).change = some p)
    (due : p.time + s.debounce.toNat ≤ s.timeBase) :
    s.takeChange n = State.reportLine (s.modLine n fun l => { l with debounced := some p.level, change := none }) n
      ((s.line n).activeAt p.level) := by
  have isDue : s.changeDue n = true := by
    simpa [State.changeDue, pending, atOrBefore] using due
  simp only [State.takeChange, pending, isDue, if_true]

theorem takeChange_noChange (h : (s.line n).change = none) : s.takeChange n = s := by
  simp only [State.takeChange, h]

theorem reportLine_off {active : Bool} (off : (s.chan lineChannel).mode = .off) : s.reportLine n active = s :=
  if_pos off

theorem reportLine_on {active : Bool} (on : (s.chan lineChannel).mode ≠ .off) :
    s.reportLine n active = s.arrive lineChannel (.line n active) :=
  if_neg on

/-- R180: a raw change that returns to the debounced level. -/
theorem changeRaw_back (l : Line) (now : Time) : l.changeRaw level level now = { l with raw := level, change := none } :=
  if_pos rfl

/-- R180: a raw change that leaves the debounced level, with none pending. -/
theorem changeRaw_away {l : Line} {d : LineLevel} (now : Time) (away : d ≠ level) (none : l.change = none) :
    l.changeRaw d level now = { l with raw := level, change := some ⟨level, now⟩ } := by
  rw [Line.changeRaw, if_neg (Ne.symm away), none]
  rfl

/-- R180: with debounce time 0 a raw change that leaves the debounced level is that level at once, and is reported. -/
theorem changeRawLevel_atOnce {d : LineLevel} (enabled : (s.line n).debounced = some d) (away : d ≠ level)
    (none : (s.line n).change = none) (zero : s.debounce = 0) :
    s.changeRawLevel n level = State.reportLine
      (s.modLine n fun l => { l with raw := level, debounced := some level, change := Option.none }) n
      ((s.line n).activeAt level) := by
  rw [changeRawLevel_enabled enabled, if_pos zero]
  have line : (s.modLine n fun l => l.changeRaw d level s.timeBase).line n =
      { s.line n with raw := level, change := some ⟨level, s.timeBase⟩ } := by
    rw [State.modLine, line_setLine_same, changeRaw_away _ away none]
  have pending : ((s.modLine n fun l => l.changeRaw d level s.timeBase).line n).change =
      some ⟨level, s.timeBase⟩ := by rw [line]
  rw [takeChange_due pending (by simp [zero]), line]
  simp only [State.modLine, setLine_setLine, line_setLine_same, changeRaw_away _ away none]
  rfl

end Scanner

/-- Settles O10: raw changes by the line's debounced level, and due changes by the mode of CH3. -/
theorem lineScannerDebounces : Obligations.LineScannerDebounces := by
  intro s n level settled active
  rw [exec_rawChange settled, exec_debouncedChange settled]
  refine ⟨fun changed disabled => ?_, fun changed back => ?_, fun d changed enabled away none => ?_,
    fun p pending due => ?_⟩
  · rw [if_neg changed, changeRawLevel_disabled disabled]
  · rw [if_neg changed, changeRawLevel_enabled back]
    have line : ((s.modLine n fun l => l.changeRaw level level s.timeBase).line n).change = Option.none := by
      rw [State.modLine, line_setLine_same, changeRaw_back]
    rw [takeChange_noChange line, ite_self]
    exact congrArg _ (modLine_congr (changeRaw_back _ _))
  · rw [if_neg changed]
    refine ⟨fun nonzero => ?_, fun zero off => ?_, fun zero on room => ?_⟩
    · rw [changeRawLevel_enabled enabled, if_neg nonzero]
      exact congrArg _ (modLine_congr (changeRaw_away _ away none))
    · rw [changeRawLevel_atOnce enabled away none zero, reportLine_off (by exact off)]
    · rw [changeRawLevel_atOnce enabled away none zero, reportLine_on (by exact on), arrive_room (by exact room)]
      rfl
  · rw [takeChange_due pending due]
    refine ⟨fun on room => ?_, fun off => ?_⟩
    · rw [reportLine_on (by exact on), arrive_room (by exact room)]
      rfl
    · rw [reportLine_off (by exact off)]

/-- Settles O8: an arrival at a full FIFO, from a receiver and from the line scanner, by the flag. -/
theorem arrivalAtFullFifoIsLost : Obligations.ArrivalAtFullFifoIsLost := by
  refine ⟨fun s i f settled frame full => ?_, fun s n level c settled on full change => ?_⟩
  · rw [exec_frameReceived settled, if_pos frame, State.endFrame]
    exact ⟨fun pending => congrArg _ (arrive_lost (by exact full) (by exact pending)),
      fun clear => congrArg _ (arrive_overruns (by exact full) (by exact clear))⟩
  · have reported : ∃ active, exec c s = .next (State.reportLine
        (s.modLine n fun l => { l with raw := level, debounced := some level, change := none }) n active) := by
      obtain ⟨rfl, raw, p, pending, rfl, due⟩ | ⟨rfl, changed, zero, none, d, enabled, away⟩ := change
      · rw [exec_debouncedChange settled, takeChange_due pending due]
        have same : (s.modLine n fun l => { l with debounced := some p.level, change := none }) =
            s.modLine n fun l => { l with raw := p.level, debounced := some p.level, change := none } :=
          modLine_congr (by rw [raw])
        rw [same]
        exact ⟨_, rfl⟩
      · rw [exec_rawChange settled, if_neg changed, changeRawLevel_atOnce enabled away none zero]
        exact ⟨_, rfl⟩
    obtain ⟨active, reported⟩ := reported
    rw [reported, reportLine_on (by exact on)]
    exact ⟨fun pending => congrArg _ (arrive_lost (by exact full) (by exact pending)),
      fun clear => congrArg _ (arrive_overruns (by exact full) (by exact clear))⟩

/-! ## Host injection (R184) -/

section Inject

variable {s : State} {ch : Channel} {v : Byte}

theorem injectByte_refused (h : (s.chan ch).mode = .off ∨ 8 ≤ (s.chan ch).fifo.length) :
    s.injectByte ch v = s.modChan ch fun c => { c with injectRefused := true } :=
  if_pos h

theorem injectByte_accepted (on : (s.chan ch).mode ≠ .off) (room : (s.chan ch).fifo.length < 8) :
    s.injectByte ch v = s.modChan ch fun c =>
      { c with injectRefused := false, fifo := c.fifo ++ [⟨injectedKind ch v, s.timeBase⟩] } := by
  rw [State.injectByte, if_neg (not_or.mpr ⟨on, Nat.not_le.mpr room⟩), State.appendRaw, modChan_modChan]
  rfl

theorem injectedKind_byte (h : ch ≠ lineChannel) : injectedKind ch v = .byte v := if_neg h

/-- R197: bits 0 to 2 of the byte name the line, bit 7 its state. -/
theorem injectedKind_line {num : LineNum} (h : num.val = v.toNat % 8) :
    injectedKind lineChannel v = .line num (v.getLsbD 7) := by
  have field : (⟨fieldAt v 0 3, fieldAt_lt v 0 3⟩ : LineNum) = num := by
    ext
    simp [fieldAt, h]
  have kind : injectedKind lineChannel v = .line ⟨fieldAt v 0 3, fieldAt_lt v 0 3⟩ (bitAt v 7) := if_pos rfl
  rw [kind, field, bitAt]

end Inject

/-- Settles O11: an injection is refused in OFF or at a full FIFO, and otherwise makes the entry of its channel. -/
theorem injectionArrives : Obligations.InjectionArrives := by
  intro s v running settled
  rw [exec_inject running settled]
  refine ⟨fun refused => congrArg _ (injectByte_refused refused), fun on room => ⟨fun serial => ?_, fun lines num named => ?_⟩⟩
  · rw [injectByte_accepted on room, injectedKind_byte serial]
  · rw [injectByte_accepted on room, lines, injectedKind_line named]

end Sys2Proof.Machine

/-! Takes that make a symbol and the expiry of a pending prefix (chapter 1). -/

namespace Sys2Proof.Machine

-- One after another these proofs need fewer threads than the whole text would otherwise hold at once.
set_option Elab.async false

/-! ## The symbol made is placed (R4, R13, R18–R21, R108) -/

theorem placeSymbol_matching {s : State} {ch : Channel} {x : Symbol} (h : (s.chan ch).mode = .matching) :
    s.placeSymbol ch x = State.arbitrate (s.modChan ch fun c => { c with ready := some x }) :=
  if_pos h

theorem placeSymbol_deliver {s : State} {ch : Channel} {x : Symbol} (h : (s.chan ch).mode ≠ .matching) :
    s.placeSymbol ch x = s.deliver ch x :=
  if_neg h

/-- Settles O13: the take leaves the mode, so its symbol is placed in the ready slot. -/
theorem symbolWaitsInMatch : Obligations.SymbolWaitsInMatch := by
  intro c s u ch x made matching
  obtain ⟨fifo, overrun, chan⟩ := symbolMade_chan made
  rw [exec_symbolMade made, placeSymbol_matching (by rw [chan]; exact matching)]

/-! ## Delivery to a channel with an empty context (R90, R95) -/

section Deliver

variable {s : State} {ch : Channel} {x : Symbol}

theorem deliver_noTail (h : (s.chan ch).tail = none) : s.deliver ch x = s.storeSymbol ch x := by
  simp only [State.deliver, h]

theorem loseSymbol_again (lost : (s.chan ch).lost = true) : s.loseSymbol ch x = s :=
  if_pos lost

theorem loseSymbol_first (kept : (s.chan ch).lost = false) :
    s.loseSymbol ch x = State.offer (s.modChan ch fun c => { c with lost := true })
      ⟨.deliveryLost, some ch, none, none, x.stamp⟩ :=
  if_neg (by simp [kept])

end Deliver

/-- Settles O14: the take leaves queue, context and lost latch, and the symbol is stored or lost by the queue's room. -/
theorem symbolDeliveredInBypass : Obligations.SymbolDeliveredInBypass := by
  intro c s u ch x made bypass tail candidates
  obtain ⟨fifo, overrun, chan⟩ := symbolMade_chan made
  have delivered : exec c s = .next (u.storeSymbol ch x) := by
    rw [exec_symbolMade made, placeSymbol_deliver (by simp [chan, bypass]), deliver_noTail (by rw [chan]; exact tail)]
  have queue : (u.chan ch).queue = (s.chan ch).queue := by rw [chan]
  have latch : (u.chan ch).lost = (s.chan ch).lost := by rw [chan]
  rw [delivered, ← queue, ← latch]
  refine ⟨fun room => ?_, fun full lost => ?_, fun full kept => ?_⟩
  · rw [storeSymbol_room room (by rw [chan]; exact candidates)]
  · rw [storeSymbol_full full, loseSymbol_again lost]
  · rw [storeSymbol_full full, loseSymbol_first kept]

/-! ## The deadline of a pending prefix (R14, R16) -/

section Expiry

variable {x : Serial}

theorem hasPrefix_iff (a : Assembler) : a.hasPrefix = true ↔ a.ext ≠ .plain ∨ a.rel = true := by
  simp [Assembler.hasPrefix]

theorem prefixDeadline_none (h : ¬(x.assembler.ext ≠ .plain ∨ x.assembler.rel = true) ∨ x.prefixWindow = 0) :
    x.prefixDeadline = none := by
  rw [← hasPrefix_iff] at h
  refine if_neg ?_
  simpa [imp_iff_not_or] using h

theorem prefixDeadline_some {p : Time} (pending : x.assembler.ext ≠ .plain ∨ x.assembler.rel = true)
    (stamp : x.assembler.prefixStamp = some p) (window : x.prefixWindow ≠ 0) :
    x.prefixDeadline = some (p + x.prefixWindow.toNat) := by
  rw [← hasPrefix_iff] at pending
  have nonzero : (x.prefixWindow != 0) = true := bne_iff_ne.mpr window
  rw [Serial.prefixDeadline, stamp, pending, nonzero]
  rfl

/-- R15: what was due before a stamp is stale at it. -/
theorem staleAt_of_deadline {d t : Time} (deadline : x.prefixDeadline = some d) (past : d < t) :
    x.staleAt t = true := by
  simpa [Serial.staleAt, deadline] using past

end Expiry

theorem exec_prefixExpiry {s : State} (settled : Settled s) (i : SerialChannel) :
    exec (.prefixExpiry i) s = .next (if s.prefixExpirable i then s.discardPrefix i else s) := by
  simp only [exec, execPrefixExpiry, afterGrant_settled settled]

theorem prefixExpirable_iff {s : State} {i : SerialChannel} :
    s.prefixExpirable i = true ↔ ∃ d, (s.ser i).prefixDeadline = some d ∧ d < s.timeBase
      ∧ ∀ e ∈ (s.chan (serialChannel i)).fifo, d < e.stamp := by
  unfold State.prefixExpirable
  cases (s.ser i).prefixDeadline <;> simp

/-- Settles O15: the expiry is judged by the deadline of the pending prefix, where there is one. -/
theorem prefixExpires : Obligations.PrefixExpires := by
  intro s i settled pending
  rw [exec_prefixExpiry settled]
  refine ⟨fun nothing => ?_, fun p isPending stamp window => ?_⟩
  · rw [if_neg]
    simp [prefixExpirable_iff, prefixDeadline_none nothing]
  intro d
  refine ⟨fun due free => ?_, fun held => ?_⟩
  · rw [if_pos]
    · rfl
    · exact prefixExpirable_iff.mpr ⟨d, prefixDeadline_some isPending stamp window, due, free⟩
  · rw [if_neg]
    rintro expirable
    obtain ⟨d', deadline, due, free⟩ := prefixExpirable_iff.mp expirable
    obtain rfl : d = d' := by
      rw [prefixDeadline_some isPending stamp window] at deadline
      exact Option.some.inj deadline
    obtain early | ⟨e, waits, stamped⟩ := held
    · exact absurd due (Nat.not_lt.mpr early)
    · exact absurd (free e waits) (Nat.not_lt.mpr stamped)

/-! ## The expiry before a byte's take (R15, R16) -/

theorem exec_takePlainByte {s : State} (h : Settled s) (i : SerialChannel) :
    exec (.takePlainByte i) s = .next (s.takePlain i) :=
  afterGrant_settled h fun t => t.takePlain i

theorem takenWithPrefix_discardPrefix (s : State) (i : SerialChannel) (rest : List RawEntry) (b : Assembler) :
    (s.discardPrefix i).takenWithPrefix i rest b = s.takenWithPrefix i rest b := by
  simp [State.takenWithPrefix, State.discardPrefix, State.modSer, State.modChan, setChan_setSer]

/-- R9: with no prefix pending none is stale. -/
theorem assemblerAt_clear {x : Serial} (h : x.assembler = .clear) (t : Time) : x.assemblerAt t = .clear := by
  rw [Serial.assemblerAt, h, ite_eq_right_iff]
  exact fun _ => rfl

/-- Settles O16: an expiry that is taken leaves what the stale test of a byte behind it would: no pending extension or
release. -/
theorem prefixExpiryAgreesWithStaleTest : Obligations.PrefixExpiryAgreesWithStaleTest := by
  intro s t i v stamp rest c k takes noOverrun listed hclass expiry
  rw [exec_prefixExpiry takes.1, Host.Outcome.next.injEq] at expiry
  subst expiry
  split
  next expirable =>
    obtain ⟨d, deadline, -, later⟩ := prefixExpirable_iff.mp expirable
    have stale : (s.ser i).assemblerAt stamp = .clear := by
      have head := later ⟨.byte v, stamp⟩ (by rw [takes.2.2.2]; exact List.mem_cons_self)
      exact assemblerAt_stale _ _ (staleAt_of_deadline deadline head)
    have gone : ((s.discardPrefix i).ser i).assemblerAt stamp = .clear :=
      assemblerAt_clear (by rw [State.discardPrefix, ser_modSer_same]) stamp
    have takes' : TakesFrom (s.discardPrefix i) (serialChannel i) ⟨.byte v, stamp⟩ rest := takes
    have hclass' : ((s.discardPrefix i).ser i).classMap[v.toNat] = k := by
      rw [State.discardPrefix, ser_modSer_same]
      exact hclass
    have settled' := takes'.1
    simp only [List.mem_cons, Prod.mk.injEq, List.not_mem_nil, or_false] at listed
    obtain ⟨rfl, rfl⟩ | ⟨rfl, rfl⟩ | ⟨rfl, rfl⟩ | ⟨rfl, rfl⟩ | ⟨rfl, rfl⟩ := listed
    · rw [exec_takePlainByte settled', exec_takePlainByte takes.1, State.takePlain, State.takePlain,
        takeByte_takes takes' noOverrun hclass', takeByte_takes takes noOverrun hclass, gone, stale,
        takenWithPrefix_discardPrefix]
    · rw [exec_takeLeadByte settled', exec_takeLeadByte takes.1, takeLead_takes takes' noOverrun (.inl ⟨hclass', rfl⟩),
        takeLead_takes takes noOverrun (.inl ⟨hclass, rfl⟩), gone, stale, takenWithPrefix_discardPrefix]
    · rw [exec_takeLeadByte settled', exec_takeLeadByte takes.1, takeLead_takes takes' noOverrun (.inr ⟨hclass', rfl⟩),
        takeLead_takes takes noOverrun (.inr ⟨hclass, rfl⟩), gone, stale, takenWithPrefix_discardPrefix]
    · rw [exec_takeReleaseByte settled', exec_takeReleaseByte takes.1, takeRelease_takes takes' noOverrun hclass',
        takeRelease_takes takes noOverrun hclass, gone, stale, takenWithPrefix_discardPrefix]
    · rw [exec_takeDropByte settled', exec_takeDropByte takes.1, takeByte_takes takes' noOverrun hclass',
        takeByte_takes takes noOverrun hclass, gone, stale, takenWithPrefix_discardPrefix]
  next => rfl

end Sys2Proof.Machine

/-! The pattern-memory arbiter (section 9.3): claims, grants and the event of a grant. -/

namespace Sys2Proof.Machine

/-! ## Decisions (R172) -/

section Decision

variable {s : State}

theorem matchClaims_false (h : ¬MatchWaits s) : s.matchClaims = false := by
  rwa [← matchClaims_iff, Bool.not_eq_true] at h

theorem tableClaims_false (h : ¬TableWaits s) : s.tableClaims = false := by
  rwa [← tableClaims_iff, Bool.not_eq_true] at h

theorem decision_nobody (m : ¬MatchWaits s) (t : ¬TableWaits s) : s.decision = none := by
  simp only [State.decision, matchClaims_false m, tableClaims_false t]

theorem decision_matchUnit (m : MatchWaits s) (t : ¬TableWaits s) : s.decision = some .matchUnit := by
  simp only [State.decision, (matchClaims_iff s).mpr m, tableClaims_false t]

theorem decision_table (m : ¬MatchWaits s) (t : TableWaits s) : s.decision = some .table := by
  simp only [State.decision, matchClaims_false m, (tableClaims_iff s).mpr t]

theorem decision_both (m : MatchWaits s) (t : TableWaits s) :
    s.decision = match s.arbiterMode with
      | .matchFirst => some .matchUnit
      | .tableFirst => some .table
      | .alternate => some (match s.lastGrant with | .matchUnit => .table | .table => .matchUnit) := by
  simp only [State.decision, (matchClaims_iff s).mpr m, (tableClaims_iff s).mpr t] <;> rfl

theorem endGrant_held {c : Claimant} (held : s.grant = .held c) :
    s.endGrant = State.arbitrate { s with grant := .free } := by
  simp only [State.endGrant, held]

/-- R172: the end of a grant, by what the arbiter decides. -/
theorem endGrant_decided {c d : Claimant} (held : s.grant = .held c) (decided : s.decision = some d) :
    s.endGrant = { s with grant := .decided d } := by
  rw [endGrant_held held]
  exact arbitrate_decided rfl decided

theorem endGrant_free {c : Claimant} (held : s.grant = .held c) (nobody : s.decision = none) :
    s.endGrant = { s with grant := .free } := by
  rw [endGrant_held held]
  exact arbitrate_none rfl nobody

end Decision

theorem settled_of_held {s : State} {c : Claimant} (h : s.grant = .held c) : Settled s := by
  simp [Settled, h]

theorem exec_grantEnd {s : State} (h : Settled s) : exec .grantEnd s = .next s.endGrant :=
  afterGrant_settled h State.endGrant

/-! ## The event of a grant whose claimant still claims -/

theorem nextReady?_isSome {s : State} (h : MatchWaits s) : ∃ ch, s.nextReady? = some ch := by
  obtain ⟨ch, ready⟩ := h
  rw [← Option.isSome_iff_exists, State.nextReady?, List.find?_isSome]
  have every : ∀ k c : Channel, c ∈ [k + 1, k + 2, k + 3, k] := by decide
  exact ⟨ch, every s.lastServed ch, (isReady_iff s ch).mpr ready⟩

theorem nextReady?_ready {s : State} {ch : Channel} (h : s.nextReady? = some ch) : ReadyChannel s ch :=
  (isReady_iff s ch).mp (List.find?_some h)

/-- R48, R49: with a claim to serve, the event of the match unit's grant is a pass. -/
theorem grantTaken_pass {s : State} (granted : s.grant = .decided .matchUnit) (waits : MatchWaits s) :
    ∃ ch x, s.nextReady? = some ch ∧ (s.chan ch).ready = some x
      ∧ s.grantTaken = (s.beginPass ch).runPass ch x := by
  obtain ⟨ch, next⟩ := nextReady?_isSome waits
  obtain ⟨x, ready⟩ := Option.ne_none_iff_exists'.mp (nextReady?_ready next).2
  exact ⟨ch, x, next, ready, by simp only [grantTaken_matchUnit granted, State.matchPass, granted, next, ready, if_true]⟩

theorem compactionMove_grant (s : State) (n : PatternNum) :
    (s.compactionMove n).grant = s.grant ∧ (s.compactionMove n).lastGrant = s.lastGrant :=
  ⟨(compactionMove_keeps s n).grant rfl, (compactionMove_keeps s n).lastGrant⟩

theorem endCompaction_lastGrant (s : State) : s.endCompaction.lastGrant = s.lastGrant :=
  (endCompaction_keeps s).lastGrant

/-- R166: the event of the table controller's grant is its pending command or a step. -/
theorem tableWaits_cases {s : State} (granted : s.grant = .decided .table) (waits : TableWaits s) :
    (∃ v, CommandGranted s v) ∨ StepGranted s := by
  cases pending : s.pendingCommand with
  | some v => exact .inl ⟨v, granted, pending⟩
  | none => exact .inr ⟨granted, waits.resolve_left (not_not_intro pending), pending⟩

/-- R172: the event at a grant holds the memory for its claimant, who is recorded as granted last. -/
theorem grantTaken_held {s : State} {a : Claimant} (granted : s.grant = .decided a) (consistent : GrantConsistent s) :
    s.grantTaken.grant = .held a ∧ s.grantTaken.lastGrant = a := by
  obtain ⟨-, -, matchWaits, tableWaits⟩ := consistent
  cases a with
  | matchUnit =>
    obtain ⟨ch, x, -, -, taken⟩ := grantTaken_pass granted (matchWaits granted)
    rw [taken, runPass_grant, (runPass_keeps _ _ _).lastGrant]
    exact ⟨rfl, rfl⟩
  | table =>
    obtain ⟨v, command⟩ | step := tableWaits_cases granted (tableWaits granted)
    · rw [grantTaken_command command]
      exact ⟨rfl, rfl⟩
    · rw [grantTaken_step step]
      unfold State.takeStep
      split
      · rw [(compactionMove_grant _ _).1, (compactionMove_grant _ _).2]
        exact ⟨rfl, rfl⟩
      · rw [endCompaction_grant, endCompaction_lastGrant]
        exact ⟨rfl, rfl⟩

/-! ## Every other command finds the event taken -/

section Taken

variable {s : State} (settled : Settled s.grantTaken)

include settled

theorem afterGrant_grantTaken (f : State → State) : afterGrant s f = afterGrant s.grantTaken f := by
  rw [afterGrant_settled settled, afterGrant]

variable (running : s.inReset = false)

include running

theorem hostAccess_grantTaken (f : State → State) : hostAccess s f = hostAccess s.grantTaken f := by
  rw [hostAccess_run ((grantTaken_setting s).inReset.trans running) settled, hostAccess, if_neg (by simp [running])]

theorem hostRead_grantTaken (value : State → Byte) (f : State → State) :
    hostRead s value f = hostRead s.grantTaken value f := by
  rw [hostRead_run ((grantTaken_setting s).inReset.trans running) settled, hostRead, if_neg (by simp [running])]

theorem readRegister_grantTaken (a : Fin 32) : s.readRegister a = s.grantTaken.readRegister a := by
  rw [readRegister_run ((grantTaken_setting s).inReset.trans running) settled, State.readRegister,
    if_neg (by simp [running])]

theorem exec_timeBaseAdvance_grantTaken : exec .timeBaseAdvance s = exec .timeBaseAdvance s.grantTaken :=
  hostAccess_grantTaken settled running State.advanceTime

end Taken

/-- R191: a reset reads the levels of the lines and the commands that wait, which no event of a grant changes. -/
theorem deviceReset_congr {s t : State} (same : SameSetting s t) : t.deviceReset = s.deviceReset := by
  simp only [State.deviceReset, State.line, same.lines, same.rxMark, same.pending]

/-- R172: a command that is no event of a grant comes after the event of a grant made. -/
theorem exec_grantTaken_eq {s : State} {c : Instr} (other : isGrantEvent c = false) (running : s.inReset = false)
    (settled : Settled s.grantTaken) : exec c s = exec c s.grantTaken := by
  cases c
  case matchPass | compactionMove | compactionEnd | define | arm | disarm | delete | readBack | clearLockout | compact
      | runtimeReset | badCommand => exact absurd other (by decide)
  case deviceReset asserted =>
    simp only [exec, execDeviceReset, deviceReset_congr (grantTaken_setting s)]
  case timeBaseAdvance => exact exec_timeBaseAdvance_grantTaken settled running
  case stageDataRead | configDataRead | classDataRead =>
    simp only [exec, execStageDataRead, execConfigDataRead, execClassDataRead]
    exact hostRead_grantTaken settled running _ _
  case frameReceived | markWaitEnd | rawChange | debouncedChange | takePlainByte | takeLeadByte | takeReleaseByte
      | takeDropByte | takeErrorEntry | takeBreakEntry | overrunTake | takeLineEntry | prefixExpiry | grantEnd
      | gapDeadlineExpiry | lockoutExpiry | tailExpiry | pulseExpiry | frameStart | falseStart =>
    simp only [exec, execFrameReceived, execMarkWaitEnd, execRawChange, execDebouncedChange, execTakePlainByte,
      execTakeLeadByte, execTakeReleaseByte, execTakeDropByte, execTakeErrorEntry, execTakeBreakEntry,
      execOverrunTake, execTakeLineEntry, execPrefixExpiry, execGrantEnd, execGapDeadlineExpiry, execLockoutExpiry,
      execTailExpiry, execPulseExpiry, execFrameStart, execFalseStart]
    exact afterGrant_grantTaken settled _
  case operandWrite | commandWrite | stageAddrWrite | stageDataWrite | configAddrWrite | classSelWrite | classAddrWrite
      | classDataWrite | chanSelWrite | take | flush | next | clearLost | outputsWrite | inject | registerWrite =>
    simp only [exec, execOperandWrite, execCommandWrite, execStageAddrWrite, execStageDataWrite, execConfigAddrWrite,
      execClassSelWrite, execClassAddrWrite, execClassDataWrite, execChanSelWrite, execTake, execFlush, execNext,
      execClearLost, execOutputsWrite, execInject, execRegisterWrite]
    exact hostAccess_grantTaken settled running _
  case modeToOff | modeOutOfOff | modeBypassMatch | lineSettingsWrite | prefixWindowWrite | holdLimitWrite
      | tailWindowWrite | linesEnableWrite | linesPolarityWrite | debounceWrite | eventLevelWrite | intCtrlWrite
      | wakeFloorWrite | pulseWidthWrite | arbiterModeWrite =>
    simp only [exec, execModeToOff, execModeOutOfOff, execModeBypassMatch, execLineSettingsWrite,
      execPrefixWindowWrite, execHoldLimitWrite, execTailWindowWrite, execLinesEnableWrite, execLinesPolarityWrite,
      execDebounceWrite, execEventLevelWrite, execIntCtrlWrite, execWakeFloorWrite, execPulseWidthWrite,
      execArbiterModeWrite]
    exact hostAccess_grantTaken settled running _

/-- Settles O17: R172's table at the end of a grant; the event at a grant is a command; every other command and every
read is the same before and after it. -/
theorem grantEndDecides : Obligations.GrantEndDecides := by
  refine ⟨fun s c held => ?_, fun s a granted consistent => ?_,
    fun s t a g granted running event taken heldAfter => ?_⟩
  · rw [exec_grantEnd (settled_of_held held)]
    refine ⟨fun m t => congrArg _ (endGrant_free held (decision_nobody m t)),
      fun m t => congrArg _ (endGrant_decided held (decision_matchUnit m t)),
      fun m t => congrArg _ (endGrant_decided held (decision_table m t)), fun m t => ?_⟩
    have both := decision_both m t
    exact ⟨fun mode => congrArg _ (endGrant_decided held (by rw [both, mode])),
      fun mode => congrArg _ (endGrant_decided held (by rw [both, mode])),
      fun mode last => congrArg _ (endGrant_decided held (by rw [both, mode, last])),
      fun mode last => congrArg _ (endGrant_decided held (by rw [both, mode, last]))⟩
  · obtain ⟨g, event, taken⟩ := exec_grantTaken s
    exact ⟨g, _, event, taken, grantTaken_held granted consistent⟩
  · obtain rfl := grantEvent_taken event granted taken heldAfter
    have settled := settled_of_held heldAfter
    exact ⟨fun c other => exec_grantTaken_eq other running settled, readRegister_grantTaken settled running⟩

/-! ## A write to COMMAND (R149, R150) -/

theorem writeCommand_idle {s : State} {v : Byte} (idle : s.pendingCommand = none) :
    s.writeCommand v = State.arbitrate { s with pendingCommand := some v } :=
  if_neg (by simp [idle])

theorem arbitrate_busy {s : State} (h : s.grant ≠ .free) : s.arbitrate = s := by
  unfold State.arbitrate
  split
  next free => exact absurd free h
  next => rfl

/-- Settles O18: a write with no command pending makes a claim, which the arbiter decides for on a free memory that
nobody else claims. -/
theorem commandWriteClaims : Obligations.CommandWriteClaims := by
  intro s v running settled
  rw [exec_commandWrite running settled]
  refine ⟨fun busy => congrArg _ (writeCommand_busy v busy), fun idle taken => ?_, fun idle free nobody => ?_⟩
  · rw [writeCommand_idle idle, arbitrate_busy (by exact taken)]
  · have decided : State.decision { s with pendingCommand := some v } = some .table :=
      decision_table (by exact nobody) (.inl (Option.some_ne_none v))
    rw [writeCommand_idle idle, arbitrate_decided (by exact free) decided]

end Sys2Proof.Machine

/-! Writes to the configuration space (R194): channel modes, plain bytes, and the bytes of the line scanner. -/

namespace Sys2Proof.Machine

-- One after another these proofs need fewer threads than the whole text would otherwise hold at once.
set_option Elab.async false

/-! ## A change of the serial part of a channel, on the channels that have one -/

section SerialPart

variable (s : State) (ch : Channel) (f : Serial → Serial)

/-- The serial parts with the one of `ch` changed, on CH3 none. -/
def State.serialChanged (s : State) (ch : Channel) (f : Serial → Serial) : Vector Serial 3 :=
  Vector.ofFn fun i => if serialChannel i = ch then f (s.ser i) else s.ser i

variable {s ch f}

theorem modSer_serialChanged {i : SerialChannel} (h : serialOf? ch = some i) :
    s.modSer i f = { s with serial := s.serialChanged ch f } := by
  obtain rfl := serialOf?_eq_some.mp h
  have serial : (s.modSer i f).serial = s.serialChanged (serialChannel i) f := by
    ext1 j hj
    have read : (s.modSer i f).serial[j] = (s.modSer i f).ser ⟨j, hj⟩ := rfl
    rw [read, ser_modSer, State.serialChanged, Vector.getElem_ofFn]
    by_cases same : (⟨j, hj⟩ : SerialChannel) = i
    · rw [if_pos same, if_pos (congrArg serialChannel same), same]
    · rw [if_neg same, if_neg fun h => same (serialChannel_injective h)]
  rw [← serial]
  rfl

theorem serialChanged_none (h : serialOf? ch = none) : s.serialChanged ch f = s.serial := by
  ext1 j hj
  rw [State.serialChanged, Vector.getElem_ofFn, if_neg]
  · rfl
  · rw [serialOf?_eq_none.mp h]
    exact serialChannel_ne_lineChannel _

end SerialPart

/-! ## Channel modes (R186–R189) -/

section Mode

variable {s : State} {ch : Channel}

theorem modeOff_eq :
    s.modeOff ch =
      { (s.modChan ch fun c =>
          { c with mode := .off, fifo := [], overrunPending := false, ready := none, candidates := [],
                   lockouts := [], tail := none }) with
        serial := s.serialChanged ch fun x => { x with reception := .stopped, assembler := .clear } } := by
  unfold State.modeOff
  cases serial : serialOf? ch with
  | some i =>
    dsimp only
    rw [modSer_serialChanged serial, State.emptyContext, modChan_modChan]
    rfl
  | none =>
    dsimp only
    rw [State.emptyContext, modChan_modChan]
    rw [serialChanged_none serial]
    rfl

theorem modeLeaveOff_eq (m : Mode) :
    s.modeLeaveOff ch m =
      { (s.modChan ch fun c => { c with mode := m }) with
        serial := s.serialChanged ch fun x => { x with reception := if x.rxMark then .idle else .markWait } } := by
  unfold State.modeLeaveOff
  cases serial : serialOf? ch with
  | some i =>
    dsimp only
    rw [modSer_serialChanged serial]
    rfl
  | none =>
    dsimp only
    rw [serialChanged_none serial]
    rfl

theorem modeMatchToBypass_none (ready : (s.chan ch).ready = none) :
    s.modeMatchToBypass ch = s.modChan ch fun c =>
      { c with mode := .bypass, ready := none, candidates := [], lockouts := [], tail := none } := by
  simp only [State.modeMatchToBypass, ready, State.emptyContext, modChan_modChan]

/-- R109: the symbol that waited is delivered with the context empty. -/
theorem modeMatchToBypass_some {x : Symbol} (ready : (s.chan ch).ready = some x) :
    s.modeMatchToBypass ch = State.storeSymbol (s.modChan ch fun c =>
      { c with mode := .bypass, ready := none, candidates := [], lockouts := [], tail := none }) ch x := by
  rw [← deliver_noTail (by rw [chan_modChan_same])]
  simp only [State.modeMatchToBypass, ready, State.emptyContext, modChan_modChan]

end Mode

section ModeCommands

variable {s : State} {ch : Channel} (running : s.inReset = false) (settled : Settled s)
  (target : s.configAddr.val = ch.val)

include running settled target

theorem exec_modeToOff (on : (s.chan ch).mode ≠ .off) :
    exec .modeToOff s = .next (s.modeOff ch).advanceConfig := by
  simp only [exec, execModeToOff, hostAccess_run running settled, configTarget_mode _ _ target, on, if_false]

theorem exec_modeOutOfOff {v : Byte} {m : Mode} (accepted : activeModeOf? v = some m) (off : (s.chan ch).mode = .off) :
    exec (.modeOutOfOff v) s = .next (s.modeLeaveOff ch m).advanceConfig := by
  simp only [exec, execModeOutOfOff, hostAccess_run running settled, configTarget_mode _ _ target, accepted, off,
    if_true]

theorem exec_modeBypassMatch_bypass (matching : (s.chan ch).mode = .matching) :
    exec (.modeBypassMatch 1) s = .next (s.modeMatchToBypass ch).advanceConfig := by
  have one : activeModeOf? 1 = some .bypass := rfl
  simp only [exec, execModeBypassMatch, hostAccess_run running settled, configTarget_mode _ _ target, one, matching]

theorem exec_modeBypassMatch_matching (bypass : (s.chan ch).mode = .bypass) :
    exec (.modeBypassMatch 2) s = .next (s.modeBypassToMatch ch).advanceConfig := by
  have two : activeModeOf? 2 = some .matching := rfl
  simp only [exec, execModeBypassMatch, hostAccess_run running settled, configTarget_mode _ _ target, two, bypass]

end ModeCommands

/-- Settles O49: a channel to OFF, and its receiver stopped where it has one. -/
theorem modeToOff : Obligations.ModeToOff := by
  intro s ch running settled target on
  rw [exec_modeToOff running settled target on, modeOff_eq]
  rfl

/-- Settles O50: a channel out of OFF, and its receiver started where it has one. -/
theorem modeOutOfOff : Obligations.ModeOutOfOff := by
  intro s ch v m running settled target off listed
  have accepted : activeModeOf? v = some m := by
    simp only [List.mem_cons, Prod.mk.injEq, List.not_mem_nil, or_false] at listed
    obtain ⟨rfl, rfl⟩ | ⟨rfl, rfl⟩ := listed <;> rfl
  rw [exec_modeOutOfOff running settled target accepted off, modeLeaveOff_eq]
  rfl

/-- CONFIG_ADDR is no part of what an offer reads. -/
theorem offer_advanceConfig (s : State) (o : Offer) : (s.offer o).advanceConfig = s.advanceConfig.offer o := by
  have created (l : EventLevel) : (s.createEvent l o).advanceConfig = s.advanceConfig.createEvent l o := by
    have enqueued (u : State) (e : EventRecord) :
        (u.enqueueEvent e).advanceConfig = u.advanceConfig.enqueueEvent e := by
      have same : u.advanceConfig.eventQueue = u.eventQueue := rfl
      unfold State.enqueueEvent
      rw [same]
      split
      · rfl
      · split <;> rfl
    exact congrArg State.refreshLines (enqueued _ _)
  have level : s.advanceConfig.tableLevel o.kind = s.tableLevel o.kind := rfl
  unfold State.offer
  rw [level]
  split
  · exact created _
  · rfl

/-- Settles O51: BYPASS to MATCH is the mode alone; MATCH to BYPASS empties the context and stores or loses the symbol
that waited. -/
theorem modeBypassMatch : Obligations.ModeBypassMatch := by
  intro s ch running settled target
  refine ⟨fun bypass => ?_, fun matching => ?_⟩
  · rw [exec_modeBypassMatch_matching running settled target bypass]
    rfl
  intro u c
  rw [exec_modeBypassMatch_bypass running settled target matching]
  have kept (lost : Bool) (same : c.lost = lost) : State.advanceConfig (s.modChan ch fun c =>
      { c with mode := .bypass, ready := none, candidates := [], lockouts := [], tail := none }) = u lost c.queue := by
    subst same
    rfl
  refine ⟨fun idle => ?_, fun x ready => ?_⟩
  · rw [modeMatchToBypass_none idle, kept _ rfl]
  rw [modeMatchToBypass_some ready]
  have queue : (State.chan (s.modChan ch fun c =>
      { c with mode := .bypass, ready := none, candidates := [], lockouts := [], tail := none }) ch).queue = c.queue := by
    rw [chan_modChan_same]
  have latch : (State.chan (s.modChan ch fun c =>
      { c with mode := .bypass, ready := none, candidates := [], lockouts := [], tail := none }) ch).lost = c.lost := by
    rw [chan_modChan_same]
  refine ⟨fun room => ?_, fun full lost => ?_, fun full clear => ?_⟩
  · rw [storeSymbol_room (by rw [queue]; exact room) (by rw [chan_modChan_same]), modChan_modChan]
    rfl
  · rw [storeSymbol_full (by rw [queue]; exact full), loseSymbol_again (by rw [latch]; exact lost), kept _ lost]
  · rw [storeSymbol_full (by rw [queue]; exact full), loseSymbol_first (by rw [latch]; exact clear),
      offer_advanceConfig, modChan_modChan]
    rfl

/-! ## The plain bytes -/

section ConfigCommands

variable {s : State} {v : Byte} (running : s.inReset = false) (settled : Settled s)

include running settled

theorem exec_prefixWindowWrite {i : SerialChannel} (target : s.configAddr.val = 0x07 + i.val) :
    exec (.prefixWindowWrite v) s = .next (s.writePrefixWindow i v).advanceConfig := by
  simp only [exec, execPrefixWindowWrite, hostAccess_run running settled, configTarget_prefixWindow _ _ target]

theorem exec_holdLimitWrite {ch : Channel} (target : s.configAddr.val = 0x0A + ch.val) :
    exec (.holdLimitWrite v) s = .next (s.writeHoldLimit ch v).advanceConfig := by
  simp only [exec, execHoldLimitWrite, hostAccess_run running settled, configTarget_holdLimit _ _ target]

theorem exec_tailWindowWrite {ch : Channel} (target : s.configAddr.val = 0x0E + ch.val) :
    exec (.tailWindowWrite v) s = .next (s.writeTailWindow ch v).advanceConfig := by
  simp only [exec, execTailWindowWrite, hostAccess_run running settled, configTarget_tailWindow _ _ target]

theorem exec_linesEnableWrite (target : s.configAddr.val = 0x12) :
    exec (.linesEnableWrite v) s = .next (s.writeLinesEnable v).advanceConfig := by
  simp only [exec, execLinesEnableWrite, hostAccess_run running settled, configTarget_linesEnable _ target]

theorem exec_linesPolarityWrite (target : s.configAddr.val = 0x13) :
    exec (.linesPolarityWrite v) s = .next (s.writeLinesPolarity v).advanceConfig := by
  simp only [exec, execLinesPolarityWrite, hostAccess_run running settled, configTarget_linesPolarity _ target]

theorem exec_debounceWrite (target : s.configAddr.val = 0x14) :
    exec (.debounceWrite v) s = .next (s.writeDebounce v).advanceConfig := by
  simp only [exec, execDebounceWrite, hostAccess_run running settled, configTarget_debounce _ target]

theorem exec_eventLevelWrite {k : Fin 7} (target : s.configAddr.val = 0x15 + k.val) :
    exec (.eventLevelWrite v) s = .next (s.writeEventLevel k v).advanceConfig := by
  simp only [exec, execEventLevelWrite, hostAccess_run running settled, configTarget_eventLevel _ _ target]

theorem exec_intCtrlWrite (target : s.configAddr.val = 0x1C) :
    exec (.intCtrlWrite v) s = .next (s.writeIntCtrl v).advanceConfig := by
  simp only [exec, execIntCtrlWrite, hostAccess_run running settled, configTarget_intCtrl _ target]

theorem exec_wakeFloorWrite (target : s.configAddr.val = 0x1D) :
    exec (.wakeFloorWrite v) s = .next (s.writeWakeFloor v).advanceConfig := by
  simp only [exec, execWakeFloorWrite, hostAccess_run running settled, configTarget_wakeFloor _ target]

theorem exec_pulseWidthWrite {o : OutputNum} (target : s.configAddr.val = 0x1E + o.val) :
    exec (.pulseWidthWrite v) s = .next (s.writePulseWidth o v).advanceConfig := by
  simp only [exec, execPulseWidthWrite, hostAccess_run running settled, configTarget_pulseWidth _ _ target]

theorem exec_arbiterModeWrite (target : s.configAddr.val = 0x22) :
    exec (.arbiterModeWrite v) s = .next (s.writeArbiterMode v).advanceConfig := by
  simp only [exec, execArbiterModeWrite, hostAccess_run running settled, configTarget_arbiterMode _ target]

end ConfigCommands

section PlainBytes

variable {s : State} {v : Byte}

theorem writeEventLevel_set {k : Fin 7} {l : Option EventLevel} (accepted : eventLevelOf? v = some l) :
    s.writeEventLevel k v = { s with eventLevels := s.eventLevels.set k.val l k.isLt } := by
  simp only [State.writeEventLevel, accepted]

theorem writeEventLevel_refused {k : Fin 7} (refused : 4 < v.toNat) : s.writeEventLevel k v = s := by
  simp only [State.writeEventLevel, eventLevelOf?_none refused]

theorem writeArbiterMode_set {m : ArbiterMode} (accepted : arbiterModeOf? v = some m) :
    s.writeArbiterMode v = { s with arbiterMode := m } := by
  simp only [State.writeArbiterMode, accepted]

theorem writeArbiterMode_refused (refused : 2 < v.toNat) : s.writeArbiterMode v = s := by
  simp only [State.writeArbiterMode, arbiterModeOf?_none refused]

theorem writeWakeFloor_set {l : Fin 5} (accepted : l.val = v.toNat) :
    s.writeWakeFloor v = State.refreshLines { s with wakeFloor := l } := by
  have named : v.toNat < 5 := accepted ▸ l.isLt
  have floor : (⟨v.toNat, named⟩ : Fin 5) = l := Fin.ext accepted.symm
  rw [State.writeWakeFloor, dif_pos named, floor]

theorem writeWakeFloor_refused (refused : 4 < v.toNat) : s.writeWakeFloor v = s :=
  dif_neg (by omega)

theorem intFloorOf_eq {l : EventLevel} (h : l.val = v.toNat % 4) : intFloorOf v = l := by
  ext
  simp [intFloorOf, fieldAt, h]

theorem writePulseWidth_set {o : OutputNum} (accepted : v ≠ 0) :
    s.writePulseWidth o v = s.modOutput o fun x => { x with width := v } :=
  if_neg accepted

theorem writePulseWidth_refused {o : OutputNum} (refused : v = 0) : s.writePulseWidth o v = s :=
  if_pos refused

/-- R173: the three codes. -/
theorem arbiterModeOf?_code {m : ArbiterMode}
    (h : (v, m) ∈ [((0 : Byte), ArbiterMode.matchFirst), (1, .tableFirst), (2, .alternate)]) :
    arbiterModeOf? v = some m := by
  simp only [List.mem_cons, Prod.mk.injEq, List.not_mem_nil, or_false] at h
  obtain ⟨rfl, rfl⟩ | ⟨rfl, rfl⟩ | ⟨rfl, rfl⟩ := h <;> rfl

end PlainBytes

/-- Settles O53: each byte with the values it accepts; the address advances at every write. -/
theorem plainConfigWrites : Obligations.PlainConfigWrites := by
  intro s v running settled up
  refine ⟨fun i target => ?_, fun ch target => ?_, fun k target => ?_, fun target l floor => ?_, fun target => ?_,
    fun o target => ?_, fun target => ?_⟩
  · rw [exec_prefixWindowWrite running settled target]
    rfl
  · rw [exec_tailWindowWrite running settled target]
    rfl
  · rw [exec_eventLevelWrite running settled target]
    refine ⟨fun l named => ?_, fun off => ?_, fun refused => ?_⟩
    · rw [writeEventLevel_set (eventLevelOf?_level named)]
      rfl
    · rw [writeEventLevel_set (l := none) (by rw [off]; rfl)]
      rfl
    · rw [writeEventLevel_refused refused]
      rfl
  · refine ⟨_, exec_intCtrlWrite running settled target, refreshLines_follow _, ?_⟩
    rw [State.writeIntCtrl, intFloorOf_eq floor]
    rfl
  · rw [exec_wakeFloorWrite running settled target]
    refine ⟨fun l named => ?_, fun refused => ?_⟩
    · rw [writeWakeFloor_set named]
      exact ⟨_, rfl, refreshLines_follow _, rfl⟩
    · rw [writeWakeFloor_refused refused]
      rfl
  · rw [exec_pulseWidthWrite running settled target]
    refine ⟨fun accepted => ?_, fun refused => ?_⟩
    · rw [writePulseWidth_set accepted]
      rfl
    · rw [writePulseWidth_refused refused]
      rfl
  · rw [exec_arbiterModeWrite running settled target]
    refine ⟨fun m listed => ?_, fun refused => ?_⟩
    · rw [writeArbiterMode_set (arbiterModeOf?_code listed)]
      rfl
    · rw [writeArbiterMode_refused refused]
      rfl

end Sys2Proof.Machine

/-! The machine, RESET and the host's accesses: steps, reset values, registers as they are written (chapters 4 and 11). -/

namespace Sys2Proof.Machine

-- One after another these proofs need fewer threads than the whole text would otherwise hold at once.
set_option Elab.async false

/-! ## Steps and device reset -/

/-- Settles O1: `step` runs the front command, by definition. -/
theorem stepRunsFrontCommand : Obligations.StepRunsFrontCommand := by
  intro c rest s
  refine ⟨rfl, fun idle => ?_⟩
  simp only [step, idle]

section DeviceReset

variable (s : State)

theorem deviceReset_ser (i : SerialChannel) : s.deviceReset.ser i = Serial.reset (s.ser i).rxMark := by
  match i with
  | 0 => rfl
  | 1 => rfl
  | 2 => rfl

theorem deviceReset_line (n : LineNum) : s.deviceReset.line n = Line.reset (s.line n).raw := by
  match n with
  | 0 => rfl
  | 1 => rfl
  | 2 => rfl
  | 3 => rfl
  | 4 => rfl
  | 5 => rfl
  | 6 => rfl
  | 7 => rfl

theorem reset_chan (ch : Channel) : State.reset.chan ch = Chan.reset := Vector.getElem_replicate ch.isLt

theorem reset_slot (n : PatternNum) : State.reset.slot n = .free := Vector.getElem_replicate n.isLt

theorem reset_output (o : OutputNum) : State.reset.output o = Output.reset := Vector.getElem_replicate o.isLt

theorem deviceReset_chan (ch : Channel) : s.deviceReset.chan ch = Chan.reset := reset_chan ch

theorem deviceReset_slot (n : PatternNum) : s.deviceReset.slot n = .free := reset_slot n

theorem deviceReset_output (o : OutputNum) : s.deviceReset.output o = Output.reset := reset_output o

end DeviceReset

/-- Settles O3: block by block. -/
theorem deviceResetValues : Obligations.DeviceResetValues := by
  intro asserted s
  refine ⟨_, rfl, rfl, rfl, rfl, deviceReset_ser s, deviceReset_line s, rfl, deviceReset_chan s, deviceReset_slot s, rfl,
    rfl, rfl, fun l => Vector.getElem_replicate l.isLt, rfl, fun k => Vector.getElem_replicate k.isLt, rfl, rfl, rfl,
    rfl, rfl, deviceReset_output s, fun a => Vector.getElem_replicate a.isLt, ?_⟩
  simp only [State.deviceReset, State.reset, true_and]

/-! ## Address registers (R193–R195) -/

/-- An address counts up and wraps to 0 (R194). -/
theorem configAddr_succ (a : Fin 64) : a + 1 = if a = 63 then 0 else a + 1 := by
  by_cases last : a = 63
  · rw [if_pos last, last]
    rfl
  · rw [if_neg last]

section AddressWrites

variable {s : State} {v : Byte}

theorem writeChanSel_named {a : Channel} (named : a.val = v.toNat) : s.writeChanSel v = { s with chanSel := a } := by
  have inside : v.toNat < 4 := named ▸ a.isLt
  have same : (⟨v.toNat, inside⟩ : Channel) = a := Fin.ext named.symm
  rw [State.writeChanSel, dif_pos inside, same]

theorem writeConfigAddr_named {a : Fin 64} (named : a.val = v.toNat) :
    s.writeConfigAddr v = { s with configAddr := a } := by
  have inside : v.toNat < 64 := named ▸ a.isLt
  have same : (⟨v.toNat, inside⟩ : Fin 64) = a := Fin.ext named.symm
  rw [State.writeConfigAddr, dif_pos inside, same]

theorem writeClassSel_named {a : Fin 4} (named : a.val = v.toNat) : s.writeClassSel v = { s with classSel := a } := by
  have inside : v.toNat < 4 := named ▸ a.isLt
  have same : (⟨v.toNat, inside⟩ : Fin 4) = a := Fin.ext named.symm
  rw [State.writeClassSel, dif_pos inside, same]

theorem writeChanSel_beyond (beyond : 4 ≤ v.toNat) : s.writeChanSel v = s := dif_neg (by omega)

theorem writeConfigAddr_beyond (beyond : 64 ≤ v.toNat) : s.writeConfigAddr v = s := dif_neg (by omega)

theorem writeClassSel_beyond (beyond : 4 ≤ v.toNat) : s.writeClassSel v = s := dif_neg (by omega)

end AddressWrites

/-- Settles O47: each register with the values it takes, and the two data reads. -/
theorem addressRegisters : Obligations.AddressRegisters := by
  intro s v running settled
  have written (f : State → State) : hostAccess s f = .next (f s) := hostAccess_run running settled f
  refine ⟨fun a named => ?_, fun a named => ?_, fun a named => ?_, fun beyond => ⟨?_, ?_⟩, fun beyond => ?_,
    written fun t => t.writeClassAddr v, ⟨_, configByte_shows s s.configAddr, ?_⟩,
    ⟨_, classDataByte_shows s, hostRead_run running settled State.classDataByte fun t => { t with classAddr := t.classAddr + 1 }⟩⟩
  · exact (written fun t => t.writeChanSel v).trans (congrArg _ (writeChanSel_named named))
  · exact (written fun t => t.writeConfigAddr v).trans (congrArg _ (writeConfigAddr_named named))
  · exact (written fun t => t.writeClassSel v).trans (congrArg _ (writeClassSel_named named))
  · exact (written fun t => t.writeChanSel v).trans (congrArg _ (writeChanSel_beyond beyond))
  · exact (written fun t => t.writeClassSel v).trans (congrArg _ (writeClassSel_beyond beyond))
  · exact (written fun t => t.writeConfigAddr v).trans (congrArg _ (writeConfigAddr_beyond beyond))
  · rw [← configAddr_succ]
    exact hostRead_run running settled (fun t => t.configByte t.configAddr) State.advanceConfig

end Sys2Proof.Machine

/-! Writes to the direct registers by address (R131, R114, R191, R192). -/

namespace Sys2Proof.Machine

-- One after another these proofs need fewer threads than the whole text would otherwise hold at once.
set_option Elab.async false

section RegisterWrites

variable {s : State} {v : Byte}

theorem writeRegister_readOnly {a : Fin 32}
    (readOnly : a.val ∈ [0x00, 0x01, 0x04, 0x0D, 0x0E, 0x0F, 0x10, 0x11, 0x12, 0x13, 0x14, 0x18, 0x19, 0x1A, 0x1B,
      0x1D, 0x1E, 0x1F]) : s.writeRegister a v = s := by
  simp only [List.mem_cons, List.not_mem_nil, or_false] at readOnly
  unfold State.writeRegister
  split <;> first | rfl | omega

/-- R201's mask: bits 4 to 7 of EVENT_CTRL. -/
theorem lostMask_bits : BitVec.ofNat 4 (fieldAt v 4 4) = v.extractLsb' 4 4 := by
  apply BitVec.eq_of_toNat_eq
  simp [fieldAt, Nat.shiftRight_eq_div_pow]

theorem writeMode_off {ch : Channel} (on : (s.chan ch).mode ≠ .off) : s.writeMode ch 0 = s.modeOff ch := by
  have named : modeOf? 0 = some .off := rfl
  cases mode : (s.chan ch).mode with
  | off => exact absurd mode on
  | bypass => simp only [State.writeMode, named, State.changeMode, mode]
  | matching => simp only [State.writeMode, named, State.changeMode, mode]

theorem writeMode_out {ch : Channel} {m : Mode} (off : (s.chan ch).mode = .off) (named : modeOf? v = some m)
    (active : m ≠ .off) : s.writeMode ch v = s.modeLeaveOff ch m := by
  cases m with
  | off => exact absurd rfl active
  | bypass => simp only [State.writeMode, named, State.changeMode, off]
  | matching => simp only [State.writeMode, named, State.changeMode, off]

theorem writeMode_matching {ch : Channel} (bypass : (s.chan ch).mode = .bypass) :
    s.writeMode ch 2 = s.modeBypassToMatch ch := by
  have named : modeOf? 2 = some .matching := rfl
  simp only [State.writeMode, named, State.changeMode, bypass]

theorem writeMode_bypass {ch : Channel} (matching : (s.chan ch).mode = .matching) :
    s.writeMode ch 1 = s.modeMatchToBypass ch := by
  have named : modeOf? 1 = some .bypass := rfl
  simp only [State.writeMode, named, State.changeMode, matching]

/-- R186: a write of the mode in force, or of no mode, leaves the channel. -/
theorem writeMode_same {ch : Channel} (same : ∀ m, modeOf? v = some m → (s.chan ch).mode = m) :
    s.writeMode ch v = s := by
  cases named : modeOf? v with
  | none => simp only [State.writeMode, named]
  | some m =>
    have mode := same m named
    cases m <;> simp only [State.writeMode, named, State.changeMode, mode]

variable (running : s.inReset = false) (settled : Settled s)

include running settled

theorem exec_registerWrite (a : Fin 32) : exec (.registerWrite a v) s = .next (s.writeRegister a v) :=
  hostAccess_run running settled fun t => t.writeRegister a v

theorem exec_configData : exec (.registerWrite 0x08 v) s = .next (s.writeConfigByte v).advanceConfig :=
  exec_registerWrite running settled 0x08

theorem exec_take_run : exec .take s = .next (s.takeHead s.chanSel) :=
  hostAccess_run running settled fun t => t.takeHead t.chanSel

theorem exec_flush_run : exec .flush s = .next (s.flushQueue s.chanSel) :=
  hostAccess_run running settled fun t => t.flushQueue t.chanSel

end RegisterWrites

section ConfigRows

variable {s : State} {v : Byte} (running : s.inReset = false) (settled : Settled s)

include running settled

/-- R194: the write of CONFIG_DATA is the write of the byte that CONFIG_ADDR names, in each range of the table. -/
theorem configData_serial :
    (0x04 ≤ s.configAddr.val → s.configAddr.val ≤ 0x06 →
        exec (.registerWrite 0x08 v) s = exec (.lineSettingsWrite v) s)
      ∧ (0x07 ≤ s.configAddr.val → s.configAddr.val ≤ 0x09 →
        exec (.registerWrite 0x08 v) s = exec (.prefixWindowWrite v) s) := by
  refine ⟨fun low high => ?_, fun low high => ?_⟩
  · have target : s.configAddr.val = 0x04 + (⟨s.configAddr.val - 0x04, by omega⟩ : SerialChannel).val := by
      dsimp only
      omega
    rw [exec_configData running settled, exec_lineSettingsWrite running settled target, State.writeConfigByte,
      configTarget_lineSettings _ _ target]
  · have target : s.configAddr.val = 0x07 + (⟨s.configAddr.val - 0x07, by omega⟩ : SerialChannel).val := by
      dsimp only
      omega
    rw [exec_configData running settled, exec_prefixWindowWrite running settled target, State.writeConfigByte,
      configTarget_prefixWindow _ _ target]

theorem configData_channel :
    (0x0A ≤ s.configAddr.val → s.configAddr.val ≤ 0x0D →
        exec (.registerWrite 0x08 v) s = exec (.holdLimitWrite v) s)
      ∧ (0x0E ≤ s.configAddr.val → s.configAddr.val ≤ 0x11 →
        exec (.registerWrite 0x08 v) s = exec (.tailWindowWrite v) s) := by
  refine ⟨fun low high => ?_, fun low high => ?_⟩
  · have target : s.configAddr.val = 0x0A + (⟨s.configAddr.val - 0x0A, by omega⟩ : Channel).val := by
      dsimp only
      omega
    rw [exec_configData running settled, exec_holdLimitWrite running settled target, State.writeConfigByte,
      configTarget_holdLimit _ _ target]
  · have target : s.configAddr.val = 0x0E + (⟨s.configAddr.val - 0x0E, by omega⟩ : Channel).val := by
      dsimp only
      omega
    rw [exec_configData running settled, exec_tailWindowWrite running settled target, State.writeConfigByte,
      configTarget_tailWindow _ _ target]

theorem configData_lines :
    (s.configAddr.val = 0x12 → exec (.registerWrite 0x08 v) s = exec (.linesEnableWrite v) s)
      ∧ (s.configAddr.val = 0x13 → exec (.registerWrite 0x08 v) s = exec (.linesPolarityWrite v) s)
      ∧ (s.configAddr.val = 0x14 → exec (.registerWrite 0x08 v) s = exec (.debounceWrite v) s) := by
  refine ⟨fun target => ?_, fun target => ?_, fun target => ?_⟩
  · rw [exec_configData running settled, exec_linesEnableWrite running settled target, State.writeConfigByte,
      configTarget_linesEnable _ target]
  · rw [exec_configData running settled, exec_linesPolarityWrite running settled target, State.writeConfigByte,
      configTarget_linesPolarity _ target]
  · rw [exec_configData running settled, exec_debounceWrite running settled target, State.writeConfigByte,
      configTarget_debounce _ target]

theorem configData_events :
    (0x15 ≤ s.configAddr.val → s.configAddr.val ≤ 0x1B →
        exec (.registerWrite 0x08 v) s = exec (.eventLevelWrite v) s)
      ∧ (s.configAddr.val = 0x1C → exec (.registerWrite 0x08 v) s = exec (.intCtrlWrite v) s)
      ∧ (s.configAddr.val = 0x1D → exec (.registerWrite 0x08 v) s = exec (.wakeFloorWrite v) s) := by
  refine ⟨fun low high => ?_, fun target => ?_, fun target => ?_⟩
  · have target : s.configAddr.val = 0x15 + (⟨s.configAddr.val - 0x15, by omega⟩ : Fin 7).val := by
      dsimp only
      omega
    rw [exec_configData running settled, exec_eventLevelWrite running settled target, State.writeConfigByte,
      configTarget_eventLevel _ _ target]
  · rw [exec_configData running settled, exec_intCtrlWrite running settled target, State.writeConfigByte,
      configTarget_intCtrl _ target]
  · rw [exec_configData running settled, exec_wakeFloorWrite running settled target, State.writeConfigByte,
      configTarget_wakeFloor _ target]

theorem configData_outputs :
    (0x1E ≤ s.configAddr.val → s.configAddr.val ≤ 0x21 →
        exec (.registerWrite 0x08 v) s = exec (.pulseWidthWrite v) s)
      ∧ (s.configAddr.val = 0x22 → exec (.registerWrite 0x08 v) s = exec (.arbiterModeWrite v) s)
      ∧ (0x22 < s.configAddr.val → exec (.registerWrite 0x08 v) s = .next { s with configAddr := s.configAddr + 1 }) := by
  refine ⟨fun low high => ?_, fun target => ?_, fun target => ?_⟩
  · have target : s.configAddr.val = 0x1E + (⟨s.configAddr.val - 0x1E, by omega⟩ : OutputNum).val := by
      dsimp only
      omega
    rw [exec_configData running settled, exec_pulseWidthWrite running settled target, State.writeConfigByte,
      configTarget_pulseWidth _ _ target]
  · rw [exec_configData running settled, exec_arbiterModeWrite running settled target, State.writeConfigByte,
      configTarget_arbiterMode _ target]
  · rw [exec_configData running settled, State.writeConfigByte, configTarget_unused _ target]
    rfl

/-- R186–R189: the write of MODE by the mode before and the value written. -/
theorem configData_mode {ch : Channel} (target : s.configAddr.val = ch.val) :
    ((s.chan ch).mode ≠ .off → exec (.registerWrite 0x08 0) s = exec .modeToOff s)
      ∧ ((s.chan ch).mode = .off → v = 1 ∨ v = 2 → exec (.registerWrite 0x08 v) s = exec (.modeOutOfOff v) s)
      ∧ ((s.chan ch).mode = .bypass ∧ v = 2 ∨ (s.chan ch).mode = .matching ∧ v = 1 →
          exec (.registerWrite 0x08 v) s = exec (.modeBypassMatch v) s)
      ∧ ((s.chan ch).mode = .off ∧ v = 0 ∨ (s.chan ch).mode = .bypass ∧ v = 1 ∨ (s.chan ch).mode = .matching ∧ v = 2
            ∨ 2 < v.toNat →
          exec (.registerWrite 0x08 v) s = .next { s with configAddr := s.configAddr + 1 }) := by
  have write (w : Byte) : exec (.registerWrite 0x08 w) s = .next (s.writeMode ch w).advanceConfig := by
    rw [exec_configData running settled, State.writeConfigByte, configTarget_mode _ _ target]
  have leave {m : Mode} (named : activeModeOf? v = some m) (isMode : modeOf? v = some m) (active : m ≠ .off)
      (off : (s.chan ch).mode = .off) : exec (.registerWrite 0x08 v) s = exec (.modeOutOfOff v) s := by
    rw [write, writeMode_out off isMode active, exec_modeOutOfOff running settled target named off]
  have stay (same : ∀ m, modeOf? v = some m → (s.chan ch).mode = m) :
      exec (.registerWrite 0x08 v) s = .next { s with configAddr := s.configAddr + 1 } := by
    rw [write, writeMode_same same]
    rfl
  refine ⟨fun on => ?_, fun off => ?_, ?_, ?_⟩
  · rw [write, writeMode_off on, exec_modeToOff running settled target on]
  · rintro (rfl | rfl)
    · exact leave (m := .bypass) rfl rfl (by decide) off
    · exact leave (m := .matching) rfl rfl (by decide) off
  · rintro (⟨bypass, rfl⟩ | ⟨matching, rfl⟩)
    · rw [write, writeMode_matching bypass, exec_modeBypassMatch_matching running settled target bypass]
    · rw [write, writeMode_bypass matching, exec_modeBypassMatch_bypass running settled target matching]
  · rintro (⟨mode, rfl⟩ | ⟨mode, rfl⟩ | ⟨mode, rfl⟩ | beyond)
    · exact stay fun m named => mode.trans (Option.some.inj named)
    · exact stay fun m named => mode.trans (Option.some.inj named)
    · exact stay fun m named => mode.trans (Option.some.inj named)
    · exact stay fun m named => absurd (named.symm.trans (modeOf?_none beyond)) (by simp)

/-- R114, R131: the requests of CHAN_CTRL and of EVENT_CTRL. -/
theorem controlWrites :
    exec (.registerWrite 0x17 v) s = .next
        (let t := if v.getLsbD 0 then s.takeHead s.chanSel else s
         if v.getLsbD 1 then t.flushQueue t.chanSel else t)
      ∧ exec (.registerWrite 0x0C v) s = .next
        (let t := if v.getLsbD 1 then s.clearLost (v.extractLsb' 4 4) else s
         if v.getLsbD 0 then t.presentNext else t) := by
  rw [← lostMask_bits]
  exact ⟨exec_registerWrite running settled 0x17, exec_registerWrite running settled 0x0C⟩

end ConfigRows

/-- Settles O5: the registers by address; two requests in one write are taken in turn, and CLEAR_LOST commutes with
NEXT. -/
theorem registerWrites : Obligations.RegisterWrites := by
  intro s v running settled
  obtain ⟨lineSettings, prefixWindow⟩ := configData_serial (v := v) running settled
  obtain ⟨holdLimit, tailWindow⟩ := configData_channel (v := v) running settled
  obtain ⟨linesEnable, linesPolarity, debounce⟩ := configData_lines (v := v) running settled
  obtain ⟨eventLevel, intCtrl, wakeFloor⟩ := configData_events (v := v) running settled
  obtain ⟨pulseWidth, arbiterMode, unused⟩ := configData_outputs (v := v) running settled
  obtain ⟨chanCtrl, eventCtrl⟩ := controlWrites (v := v) running settled
  refine ⟨fun a readOnly => ?_, rfl, rfl, rfl, rfl, rfl, rfl, rfl, rfl, rfl, rfl, rfl,
    ⟨lineSettings, prefixWindow, holdLimit, tailWindow, linesEnable, linesPolarity, debounce, eventLevel, intCtrl,
      wakeFloor, pulseWidth, arbiterMode, unused, fun ch target => configData_mode running settled target⟩,
    fun b0 b1 => ?_, fun b0 b1 => ?_, fun b0 b1 => ?_, fun b0 b1 => ?_⟩
  · rw [exec_registerWrite running settled, writeRegister_readOnly readOnly]
  · rw [chanCtrl, eventCtrl, b0, b1]
    exact ⟨rfl, rfl⟩
  · rw [chanCtrl, eventCtrl, b0, b1, exec_take_run running settled, exec_next running settled]
    exact ⟨rfl, rfl⟩
  · rw [chanCtrl, eventCtrl, b0, b1, exec_flush_run running settled, exec_clearLost running settled]
    exact ⟨rfl, rfl⟩
  · rw [chanCtrl, eventCtrl, b0, b1, exec_take_run running settled, exec_next running settled]
    refine ⟨fun t taken => ?_, fun t presented => ?_⟩
    · cases taken
      rw [exec_flush_run (by simpa using running) (by simpa [Settled] using settled)]
      rfl
    · cases presented
      rw [exec_clearLost (s := s.presentNext) running settled]
      rfl

end Sys2Proof.Machine

/-! What every command keeps (statements on steps): the invariants channel by channel and part by part, and `Preserves`,
which collects them so that an operation is looked at once for all of them. -/

namespace Sys2Proof.Machine

-- One after another these proofs need fewer threads than the whole text would otherwise hold at once.
set_option Elab.async false

/-! ## The invariants, piece by piece -/

/-- A channel within the capacities of R182, R88 and R44. -/
def Chan.Fits (c : Chan) : Prop := c.fifo.length ≤ 8 ∧ c.queue.length ≤ 32 ∧ c.candidates.length ≤ 12

/-- A channel with its arrivals and stamps in order, the time base being `now`. -/
def Chan.Ordered (now : Time) (c : Chan) : Prop :=
  (c.symbols.map (·.arrival)).Pairwise (· < ·)
    ∧ (∀ x ∈ c.symbols, x.arrival < c.arrivalCounter)
    ∧ (c.symbols.map (·.stamp) ++ c.fifo.map (·.stamp)).Pairwise (· ≤ ·)
    ∧ (∀ x ∈ c.symbols, x.stamp ≤ now)
    ∧ (∀ e ∈ c.fifo, e.stamp ≤ now)
    ∧ (c.overrunPending = true → 8 ≤ c.fifo.length)

/-- A candidate that the slots of `s` and the other pieces of its channel allow (R43, R44). -/
def Chan.Allows (s : State) (ch : Channel) (c : Chan) (b : Candidate) : Prop :=
  (∃ r, s.slot b.pattern = .armed r ∧ r.pattern.channels.getLsbD ch.val = true
      ∧ 1 ≤ b.position ∧ b.position < r.pattern.length ∧ (b.deadline ≠ none ↔ r.pattern.gap ≠ 0))
    ∧ b.birth < c.arrivalCounter
    ∧ (∀ x ∈ c.ready, b.birth < x.arrival)
    ∧ ∀ l ∈ c.lockouts, l.pattern ≠ b.pattern

/-- The order of a candidate set (R44). -/
def Candidate.Before (a b : Candidate) : Prop :=
  (a.birth < b.birth ∨ a.birth = b.birth ∧ a.pattern < b.pattern)
    ∧ ¬(a.pattern = b.pattern ∧ a.position = b.position)

/-- A lockout record that the slots of `s` allow on the channel (R46). -/
def Lockout.Allowed (s : State) (ch : Channel) (l : Lockout) : Prop :=
  ∃ r, s.slot l.pattern = .armed r ∧ r.pattern.channels.getLsbD ch.val = true ∧ r.pattern.lockout = true

/-- The match context of a channel under the slots of `s`. -/
def Chan.Sound (s : State) (ch : Channel) (c : Chan) : Prop :=
  (c.mode ≠ .matching → c.candidates = [] ∧ c.lockouts = [] ∧ c.tail = none)
    ∧ (∀ b ∈ c.candidates, c.Allows s ch b)
    ∧ c.candidates.Pairwise Candidate.Before
    ∧ (c.lockouts.map (·.pattern)).Nodup
    ∧ ∀ l ∈ c.lockouts, l.Allowed s ch

/-- R104 on a channel under the slots of `s`. -/
def Chan.HoldsWithin (s : State) (c : Chan) : Prop :=
  1 ≤ c.holdLimit ∧ c.holdLimit ≤ 32 ∧ (heldUnder s c.queue c.candidates).length ≤ c.holdLimit

/-- A receiver and its assembler, the channel being in the mode given. -/
def Serial.Sound (mode : Mode) (x : Serial) : Prop :=
  (x.reception = .stopped ↔ mode = .off)
    ∧ (x.reception = .idle → x.rxMark = true)
    ∧ (x.reception = .markWait → x.rxMark = false)
    ∧ (x.assembler.prefixStamp ≠ none ↔ x.assembler.ext ≠ .plain ∨ x.assembler.rel = true)
    ∧ (mode = .off → x.assembler = ⟨.plain, false, none⟩)

/-- A discrete line (R179, R180). -/
def Line.Sound (l : Line) : Prop :=
  (l.enabled = true ↔ l.debounced ≠ none)
    ∧ (l.debounced = none → l.change = none)
    ∧ ∀ d, l.debounced = some d → l.change.map (·.level) = if l.raw = d then none else some l.raw

/-- An output (R138). -/
def Output.Sound (o : Output) : Prop := (o.deadline ≠ none → o.level = .high) ∧ o.width ≠ 0

section Pieces

variable {s : State}

theorem withinCapacity_iff : WithinCapacity s ↔ (∀ ch, (s.chan ch).Fits) ∧ s.eventQueue.length ≤ 32 := Iff.rfl

theorem arrivalsOrdered_iff : ArrivalsOrdered s ↔ ∀ ch, (s.chan ch).Ordered s.timeBase := Iff.rfl

theorem contextsConsistent_iff : ContextsConsistent s ↔ ∀ ch, (s.chan ch).Sound s ch := Iff.rfl

theorem heldWithinLimit_iff : HeldWithinLimit s ↔ ∀ ch, (s.chan ch).HoldsWithin s := Iff.rfl

theorem receiversConsistent_iff :
    ReceiversConsistent s ↔ ∀ i, (s.ser i).Sound (s.chan (serialChannel i)).mode := Iff.rfl

theorem linesConsistent_iff : LinesConsistent s ↔ ∀ n, (s.line n).Sound := Iff.rfl

theorem outputsConsistent_iff : OutputsConsistent s ↔ ∀ o, (s.output o).Sound := Iff.rfl

/-- What holds of every piece but one, and of what is put in its place, holds of every piece. -/
theorem forall_updated {ι α : Type} [DecidableEq ι] {f g : ι → α} {P : ι → α → Prop} {k : ι} (all : ∀ j, P j (f j))
    (same : ∀ j, j ≠ k → g j = f j) (new : P k (g k)) (j : ι) : P j (g j) := by
  by_cases here : j = k
  · exact here ▸ new
  · exact (same j here).symm ▸ all j

end Pieces

/-- The invariants on which the contexts and the held entries rest (O59). -/
structure Invariants (s : State) : Prop where
  grants : GrantConsistent s
  pool : PoolConsistent s
  arrivals : ArrivalsOrdered s
  capacity : WithinCapacity s
  contexts : ContextsConsistent s
  held : HeldWithinLimit s

/-- Going from `s` to `t` leaves the commands that wait and RESET, and keeps each invariant. -/
structure Preserves (s t : State) : Prop where
  pending : t.pending = s.pending
  inReset : t.inReset = s.inReset
  capacity : WithinCapacity s → WithinCapacity t
  pool : PoolConsistent s → PoolConsistent t
  receivers : ReceiversConsistent s → ReceiversConsistent t
  lines : LinesConsistent s → LinesConsistent t
  outputs : OutputsConsistent s → OutputsConsistent t
  grants : GrantConsistent s → GrantConsistent t
  arrivals : ArrivalsOrdered s → ArrivalsOrdered t
  contexts : Invariants s → ContextsConsistent t ∧ HeldWithinLimit t

namespace Preserves

variable {s t u : State}

theorem refl (s : State) : Preserves s s :=
  ⟨rfl, rfl, id, id, id, id, id, id, id, fun h => ⟨h.contexts, h.held⟩⟩

theorem invariants (p : Preserves s t) (h : Invariants s) : Invariants t :=
  ⟨p.grants h.grants, p.pool h.pool, p.arrivals h.arrivals, p.capacity h.capacity, (p.contexts h).1, (p.contexts h).2⟩

theorem trans (p : Preserves s t) (q : Preserves t u) : Preserves s u where
  pending := q.pending.trans p.pending
  inReset := q.inReset.trans p.inReset
  capacity h := q.capacity (p.capacity h)
  pool h := q.pool (p.pool h)
  receivers h := q.receivers (p.receivers h)
  lines h := q.lines (p.lines h)
  outputs h := q.outputs (p.outputs h)
  grants h := q.grants (p.grants h)
  arrivals h := q.arrivals (p.arrivals h)
  contexts h := q.contexts (p.invariants h)

theorem ite {c : Prop} [Decidable c] (p : c → Preserves s t) (q : ¬c → Preserves s u) :
    Preserves s (if c then t else u) := by
  split
  next h => exact p h
  next h => exact q h

theorem forEach {α : Type} {f : State → α → State} (items : List α) (step : ∀ t, ∀ a ∈ items, Preserves t (f t a)) :
    Preserves s (forEach items f s) := by
  induction items generalizing s with
  | nil => exact refl s
  | cons a items ih =>
    exact (step s a (List.mem_cons_self ..)).trans (ih fun t b hb => step t b (List.mem_cons_of_mem a hb))

end Preserves

/-! ## Changes of one part -/

/-- `t` is `s` in every part that an invariant reads, its event queue apart, which stays within its capacity. -/
structure Same (s t : State) : Prop where
  pending : t.pending = s.pending
  inReset : t.inReset = s.inReset
  chans : t.chans = s.chans
  serial : t.serial = s.serial
  lines : t.lines = s.lines
  slots : t.slots = s.slots
  outputs : t.outputs = s.outputs
  grant : t.grant = s.grant
  pendingCommand : t.pendingCommand = s.pendingCommand
  compacting : t.compacting = s.compacting
  timeBase : t.timeBase = s.timeBase
  room : s.eventQueue.length ≤ 32 → t.eventQueue.length ≤ 32

section Parts

variable {s t : State}

theorem Same.chan (h : Same s t) (ch : Channel) : t.chan ch = s.chan ch := by rw [State.chan, h.chans]; rfl
theorem Same.slot (h : Same s t) (n : PatternNum) : t.slot n = s.slot n := by rw [State.slot, h.slots]; rfl

/-- The context of a channel reads the slots alone. -/
theorem Chan.Sound.congr {ch : Channel} {c : Chan} (h : c.Sound s ch) (slots : ∀ n, t.slot n = s.slot n) :
    c.Sound t ch := by
  simpa only [Chan.Sound, Chan.Allows, Lockout.Allowed, slots] using h

theorem Chan.HoldsWithin.congr {c : Chan} (h : c.HoldsWithin s) (slots : ∀ n, t.slot n = s.slot n) :
    c.HoldsWithin t := by
  rw [Chan.HoldsWithin, heldUnder_congr (swallowing_congr slots)]
  exact h

theorem Same.preserves (h : Same s t) : Preserves s t where
  pending := h.pending
  inReset := h.inReset
  capacity := fun ⟨chans, events⟩ => ⟨fun ch => (h.chan ch).symm ▸ chans ch, h.room events⟩
  pool := by simp only [PoolConsistent, h.slot]; exact id
  receivers := by simp only [ReceiversConsistent, State.ser, h.serial, h.chan]; exact id
  lines := by simp only [LinesConsistent, State.line, h.lines]; exact id
  outputs := by simp only [OutputsConsistent, State.output, h.outputs]; exact id
  grants := by
    simp only [GrantConsistent, MatchWaits, ReadyChannel, TableWaits, h.chan, h.grant, h.pendingCommand, h.compacting]
    exact id
  arrivals := by simp only [arrivalsOrdered_iff, h.chan, h.timeBase]; exact id
  contexts := fun all =>
    ⟨contextsConsistent_iff.mpr fun ch => (h.chan ch).symm ▸ Chan.Sound.congr (s := s) (all.contexts ch) h.slot,
      heldWithinLimit_iff.mpr fun ch => (h.chan ch).symm ▸ Chan.HoldsWithin.congr (s := s) (all.held ch) h.slot⟩

/-- An operation that touches the event unit alone. -/
theorem Same.of_keeps {p : Parts} (h : Keeps p s t) (only : p = { events := true })
    (room : s.eventQueue.length ≤ 32 → t.eventQueue.length ≤ 32) : Same s t := by
  subst only
  exact ⟨h.pending, h.inReset, h.chans rfl, h.serial rfl, h.lines rfl, h.slots rfl, h.outputs rfl, h.grant rfl,
    h.pendingCommand, h.compacting rfl, h.timeBase, room⟩

/-- A serial part that stays sound. -/
theorem Preserves.setSer (i : SerialChannel) (y : Serial)
    (sound : (s.ser i).Sound (s.chan (serialChannel i)).mode → y.Sound (s.chan (serialChannel i)).mode) :
    Preserves s (s.setSer i y) where
  pending := rfl
  inReset := rfl
  capacity := id
  pool := id
  receivers h := by
    refine forall_updated (k := i) (P := fun j (x : Serial) => x.Sound (s.chan (serialChannel j)).mode) h
      (fun j other => ser_setSer_other s y other) ?_
    rw [ser_setSer_same]
    exact sound (h i)
  lines := id
  outputs := id
  grants := id
  arrivals := id
  contexts h := ⟨h.contexts, h.held⟩

theorem Preserves.modSer (i : SerialChannel) (f : Serial → Serial)
    (sound : ∀ mode, mode = (s.chan (serialChannel i)).mode → (s.ser i).Sound mode → (f (s.ser i)).Sound mode) :
    Preserves s (s.modSer i f) :=
  Preserves.setSer i _ (sound _ rfl)

theorem Preserves.modLine (n : LineNum) (f : Line → Line) (sound : (s.line n).Sound → (f (s.line n)).Sound) :
    Preserves s (s.modLine n f) where
  pending := rfl
  inReset := rfl
  capacity := id
  pool := id
  receivers := id
  lines h := by
    refine forall_updated (k := n) (P := fun _ (l : Line) => l.Sound) h (fun j other => line_modLine_other s f other) ?_
    rw [line_modLine_same]
    exact sound (h n)
  outputs := id
  grants := id
  arrivals := id
  contexts h := ⟨h.contexts, h.held⟩

theorem Preserves.modOutput (o : OutputNum) (f : Output → Output) (sound : (s.output o).Sound → (f (s.output o)).Sound) :
    Preserves s (s.modOutput o f) where
  pending := rfl
  inReset := rfl
  capacity := id
  pool := id
  receivers := id
  lines := id
  outputs h := by
    refine forall_updated (k := o) (P := fun _ (x : Output) => x.Sound) h (fun j other => output_modOutput_other s f other) ?_
    rw [output_modOutput_same]
    exact sound (h o)
  grants := id
  arrivals := id
  contexts h := ⟨h.contexts, h.held⟩

end Parts

end Sys2Proof.Machine

/-! Changes of one channel that keep the invariants: arrivals at its FIFO, and what only takes from its context and its
queue. -/

namespace Sys2Proof.Machine

-- One after another these proofs need fewer threads than the whole text would otherwise hold at once.
set_option Elab.async false

/-! ## The event unit -/

section Events

variable (s : State)

/-- R123: a created event finds room, takes the place of one evicted, or is dropped. -/
theorem enqueueEvent_within (e : EventRecord) (h : s.eventQueue.length ≤ 32) :
    (s.enqueueEvent e).eventQueue.length ≤ 32 := by
  unfold State.enqueueEvent
  split
  next room =>
    have room : s.eventQueue.length < 32 := room
    simp only [List.length_append, List.length_singleton]
    omega
  next full =>
    split
    · have full : ¬s.eventQueue.length < 32 := full
      obtain ⟨q, isIn, lowest⟩ := lowestLevel_attained (q := s.eventQueue) fun h => by
        rw [h] at full
        exact full (by decide)
      have fewer : (withoutYoungestLowest s.eventQueue).length = s.eventQueue.length - 1 := by
        rw [withoutYoungestLowest, List.length_reverse, List.length_eraseP_of_mem (List.mem_reverse.mpr isIn)
          (by simp [lowest]), List.length_reverse]
      simp only [markLost_eventQueue, List.length_append, List.length_singleton, fewer]
      omega
    · exact h

theorem Same.createEvent (l : EventLevel) (o : Offer) : Same s (s.createEvent l o) :=
  Same.of_keeps (createEvent_keeps s l o) rfl
    (enqueueEvent_within { s with eventSeq := s.eventSeq + 1 } (o.record s.eventSeq l))

theorem Same.refl : Same s s := ⟨rfl, rfl, rfl, rfl, rfl, rfl, rfl, rfl, rfl, rfl, rfl, id⟩

variable {s} in
theorem Same.trans {t u : State} (h : Same s t) (k : Same t u) : Same s u :=
  ⟨k.pending.trans h.pending, k.inReset.trans h.inReset, k.chans.trans h.chans, k.serial.trans h.serial,
    k.lines.trans h.lines, k.slots.trans h.slots, k.outputs.trans h.outputs, k.grant.trans h.grant,
    k.pendingCommand.trans h.pendingCommand, k.compacting.trans h.compacting, k.timeBase.trans h.timeBase,
    fun room => k.room (h.room room)⟩

theorem Same.offer (o : Offer) : Same s (s.offer o) := by
  unfold State.offer
  split
  · exact Same.createEvent s _ o
  · exact Same.refl s

theorem Preserves.offer (o : Offer) : Preserves s (s.offer o) := (Same.offer s o).preserves

theorem Preserves.createEvent (l : EventLevel) (o : Offer) : Preserves s (s.createEvent l o) :=
  (Same.createEvent s l o).preserves

end Events

section Channel

variable {s : State} {ch : Channel} {c d : Chan}

/-- A change of one channel that keeps its mode and its ready slot, after what led from `s₀` to `s`. -/
theorem Preserves.thenSetChan {s₀ : State} (before : Preserves s₀ s) (mode : d.mode = (s.chan ch).mode)
    (ready : d.ready = (s.chan ch).ready) (fits : (s.chan ch).Fits → d.Fits)
    (ordered : ArrivalsOrdered s₀ → (s.chan ch).Ordered s.timeBase → d.Ordered s.timeBase)
    (sound : Invariants s₀ → (s.chan ch).Sound s ch → d.Sound s ch)
    (held : Invariants s₀ → (s.chan ch).HoldsWithin s → d.HoldsWithin s) : Preserves s₀ (s.setChan ch d) := by
  have other (j : Channel) (h : j ≠ ch) : (s.setChan ch d).chan j = s.chan j := chan_setChan_other s d h
  have here : (s.setChan ch d).chan ch = d := chan_setChan_same s ch d
  have modes (j : Channel) : ((s.setChan ch d).chan j).mode = (s.chan j).mode := by
    by_cases same : j = ch
    · rw [same, here, mode]
    · rw [other j same]
  have readies (j : Channel) : ((s.setChan ch d).chan j).ready = (s.chan j).ready := by
    by_cases same : j = ch
    · rw [same, here, ready]
    · rw [other j same]
  constructor
  case pending => exact before.pending
  case inReset => exact before.inReset
  case capacity =>
    intro h
    obtain ⟨chans, events⟩ := withinCapacity_iff.mp (before.capacity h)
    exact ⟨forall_updated (P := fun _ (c : Chan) => c.Fits) chans other (here.symm ▸ fits (chans ch)), events⟩
  case pool => exact before.pool
  case receivers =>
    intro h
    have h := before.receivers h
    simp only [ReceiversConsistent, modes]
    exact h
  case lines => exact before.lines
  case outputs => exact before.outputs
  case grants =>
    intro h
    have h := before.grants h
    simp only [GrantConsistent, MatchWaits, ReadyChannel, modes, readies]
    exact h
  case arrivals =>
    exact fun h => forall_updated (P := fun _ (c : Chan) => c.Ordered s.timeBase) (before.arrivals h) other
      (here.symm ▸ ordered h (before.arrivals h ch))
  case contexts =>
    intro h
    obtain ⟨contexts, limits⟩ := before.contexts h
    exact ⟨forall_updated (P := fun j (c : Chan) => c.Sound s j) contexts other (here.symm ▸ sound h (contexts ch)),
      forall_updated (P := fun _ (c : Chan) => c.HoldsWithin s) limits other (here.symm ▸ held h (limits ch))⟩

/-- A change of one channel that keeps its mode and its ready slot. -/
theorem Preserves.setChan (mode : d.mode = (s.chan ch).mode) (ready : d.ready = (s.chan ch).ready)
    (fits : (s.chan ch).Fits → d.Fits) (ordered : (s.chan ch).Ordered s.timeBase → d.Ordered s.timeBase)
    (sound : (s.chan ch).Sound s ch → d.Sound s ch) (held : (s.chan ch).HoldsWithin s → d.HoldsWithin s) :
    Preserves s (s.setChan ch d) :=
  (Preserves.refl s).thenSetChan mode ready fits (fun _ => ordered) (fun _ => sound) fun _ => held

/-- `d` is `c` but for its FIFO and the flags of it. -/
structure Chan.SameButFifo (c d : Chan) : Prop where
  mode : d.mode = c.mode
  ready : d.ready = c.ready
  arrivalCounter : d.arrivalCounter = c.arrivalCounter
  candidates : d.candidates = c.candidates
  lockouts : d.lockouts = c.lockouts
  tail : d.tail = c.tail
  queue : d.queue = c.queue
  holdLimit : d.holdLimit = c.holdLimit

theorem Chan.SameButFifo.sound (h : c.SameButFifo d) : c.Sound s ch → d.Sound s ch := by
  simp only [Chan.Sound, Chan.Allows, h.mode, h.ready, h.arrivalCounter, h.candidates, h.lockouts, h.tail]
  exact id

theorem Chan.SameButFifo.holdsWithin (h : c.SameButFifo d) : c.HoldsWithin s → d.HoldsWithin s := by
  simp only [Chan.HoldsWithin, h.queue, h.candidates, h.holdLimit]
  exact id

theorem Chan.SameButFifo.symbols (h : c.SameButFifo d) : d.symbols = c.symbols := by
  rw [Chan.symbols, h.queue, h.ready]
  rfl

/-- A change of a FIFO whose entries stay in order behind the symbols. -/
theorem Preserves.setFifo (same : (s.chan ch).SameButFifo d) (room : (s.chan ch).fifo.length ≤ 8 → d.fifo.length ≤ 8)
    (ordered : (s.chan ch).Ordered s.timeBase → d.Ordered s.timeBase) : Preserves s (s.setChan ch d) := by
  refine Preserves.setChan same.mode same.ready (fun ⟨fifo, queue, candidates⟩ => ⟨room fifo, ?_, ?_⟩) ordered same.sound
    same.holdsWithin
  · rw [same.queue]; exact queue
  · rw [same.candidates]; exact candidates

/-- R72: an entry stamped with the time base stands behind all that arrived before. -/
theorem Chan.Ordered.append {now : Time} (h : c.Ordered now) (k : RawKind) (injectRefused : Bool) :
    Chan.Ordered now { c with fifo := c.fifo ++ [⟨k, now⟩], injectRefused := injectRefused } := by
  obtain ⟨arrivals, counter, stamps, symbols, fifo, overrun⟩ := h
  refine ⟨arrivals, counter, ?_, symbols, ?_, fun h => ?_⟩
  · simp only [List.map_append, List.map_cons, List.map_nil, ← List.append_assoc]
    refine List.pairwise_append.mpr ⟨stamps, List.pairwise_singleton _ _, fun t ht u hu => ?_⟩
    rw [List.mem_singleton.mp hu]
    rcases List.mem_append.mp ht with ht | ht
    · obtain ⟨x, hx, rfl⟩ := List.mem_map.mp ht
      exact symbols x hx
    · obtain ⟨e, he, rfl⟩ := List.mem_map.mp ht
      exact fifo e he
  · intro e he
    rcases List.mem_append.mp he with he | he
    · exact fifo e he
    · rw [List.mem_singleton.mp he]
  · have := overrun h
    simp only [List.length_append, List.length_singleton]
    omega

/-- R5: the head entry leaves. -/
theorem Chan.Ordered.pop {now : Time} (h : c.Ordered now) (noOverrun : c.overrunPending = false) :
    Chan.Ordered now { c with fifo := c.fifo.tail } := by
  obtain ⟨arrivals, counter, stamps, symbols, fifo, -⟩ := h
  have rest : c.fifo.tail.Sublist c.fifo := List.tail_sublist c.fifo
  exact ⟨arrivals, counter, stamps.sublist ((List.Sublist.refl _).append (rest.map _)), symbols,
    fun e he => fifo e (rest.subset he), fun h => absurd (noOverrun.symm.trans h) Bool.false_ne_true⟩

/-- R183: an arrival joins the FIFO, or sets overrun pending at a full one. -/
theorem Preserves.appendRaw (room : (s.chan ch).fifo.length < 8) (k : RawKind) (injectRefused : Bool) :
    Preserves s (s.modChan ch fun c =>
      { c with fifo := c.fifo ++ [⟨k, s.timeBase⟩], injectRefused := injectRefused }) := by
  refine Preserves.setFifo ⟨rfl, rfl, rfl, rfl, rfl, rfl, rfl, rfl⟩ (fun _ => ?_) fun h => h.append k injectRefused
  simp only [List.length_append, List.length_singleton]
  omega

theorem Preserves.arrive (s : State) (ch : Channel) (k : RawKind) : Preserves s (s.arrive ch k) := by
  refine Preserves.ite (fun room => Preserves.appendRaw room k (s.chan ch).injectRefused) fun full => ?_
  refine Preserves.ite (fun _ => Preserves.refl s) fun _ => Preserves.trans ?_ (Preserves.offer _ _)
  refine Preserves.setFifo ⟨rfl, rfl, rfl, rfl, rfl, rfl, rfl, rfl⟩ id ?_
  exact fun ⟨arrivals, counter, stamps, symbols, fifo, _⟩ =>
    ⟨arrivals, counter, stamps, symbols, fifo, fun _ => Nat.le_of_not_lt full⟩

theorem Preserves.injectByte (s : State) (ch : Channel) (v : Byte) : Preserves s (s.injectByte ch v) := by
  refine Preserves.ite (fun _ => ?_) fun accepted => ?_
  · exact Preserves.setFifo ⟨rfl, rfl, rfl, rfl, rfl, rfl, rfl, rfl⟩ id id
  · have room : (s.chan ch).fifo.length < 8 := Nat.lt_of_not_le fun h => accepted (.inr h)
    rw [State.appendRaw, modChan_modChan]
    exact Preserves.appendRaw room (injectedKind ch v) false

theorem Preserves.popRaw (noOverrun : (s.chan ch).overrunPending = false) : Preserves s (s.popRaw ch) := by
  refine Preserves.setFifo ⟨rfl, rfl, rfl, rfl, rfl, rfl, rfl, rfl⟩ (fun h => ?_) fun h => h.pop noOverrun
  exact (List.length_tail ▸ Nat.sub_le _ _).trans h

/-! ## What only takes away -/

/-- `d` is `c` with fewer symbols delivered, fewer candidates and fewer lockout records, or as many; its tail record,
its latches and its tail window are free, but no tail record stands where none stood. -/
structure Chan.Shrinks (c d : Chan) : Prop where
  mode : d.mode = c.mode
  ready : d.ready = c.ready
  fifo : d.fifo = c.fifo
  overrunPending : d.overrunPending = c.overrunPending
  arrivalCounter : d.arrivalCounter = c.arrivalCounter
  holdLimit : d.holdLimit = c.holdLimit
  candidates : d.candidates.Sublist c.candidates
  lockouts : d.lockouts.Sublist c.lockouts
  tail : c.tail = none → d.tail = none
  queue : d.queue.Sublist c.queue

theorem heldUnder_mono (s : State) {q p : List Symbol} {a b : List Candidate} (queue : p.Sublist q)
    (candidates : a.Sublist b) : (heldUnder s p a).length ≤ (heldUnder s q b).length := by
  have fewer : (heldUnder s p a).Sublist (heldUnder s p b) := by
    refine List.monotone_filter_right p fun x held => ?_
    obtain ⟨c, hc, h⟩ := List.any_eq_true.mp held
    exact List.any_eq_true.mpr ⟨c, candidates.subset hc, h⟩
  exact (fewer.trans (queue.filter _)).length_le

theorem Preserves.shrink (h : (s.chan ch).Shrinks d) : Preserves s (s.setChan ch d) := by
  have symbols : d.symbols.Sublist (s.chan ch).symbols := by
    rw [Chan.symbols, Chan.symbols, h.ready]
    exact h.queue.append (List.Sublist.refl _)
  refine Preserves.setChan h.mode h.ready ?fits ?ordered ?sound ?held
  case fits =>
    rintro ⟨fifo, queue, candidates⟩
    exact ⟨h.fifo.symm ▸ fifo, h.queue.length_le.trans queue, h.candidates.length_le.trans candidates⟩
  case ordered =>
    rintro ⟨arrivals, counter, stamps, stamped, fifo, overrun⟩
    rw [Chan.Ordered, h.fifo, h.overrunPending, h.arrivalCounter]
    exact ⟨arrivals.sublist (symbols.map _), fun x hx => counter x (symbols.subset hx),
      stamps.sublist ((symbols.map _).append (List.Sublist.refl _)), fun x hx => stamped x (symbols.subset hx), fifo,
      overrun⟩
  case sound =>
    rintro ⟨empty, allowed, order, nodup, lockouts⟩
    refine ⟨fun off => ?_, fun b hb => ?_, order.sublist h.candidates, nodup.sublist (h.lockouts.map _),
      fun l hl => lockouts l (h.lockouts.subset hl)⟩
    · obtain ⟨noCandidates, noLockouts, noTail⟩ := empty (h.mode ▸ off)
      exact ⟨List.sublist_nil.mp (noCandidates ▸ h.candidates), List.sublist_nil.mp (noLockouts ▸ h.lockouts),
        h.tail noTail⟩
    · obtain ⟨stored, birth, ready, free⟩ := allowed b (h.candidates.subset hb)
      rw [Chan.Allows, h.arrivalCounter, h.ready]
      exact ⟨stored, birth, ready, fun l hl => free l (h.lockouts.subset hl)⟩
  case held =>
    rintro ⟨low, high, within⟩
    rw [Chan.HoldsWithin, h.holdLimit]
    exact ⟨low, high, (heldUnder_mono s h.queue h.candidates).trans within⟩

/-- A change of the context, the queue or the latches that only takes away. -/
theorem Preserves.shrinkBy (f : Chan → Chan) (h : (s.chan ch).Shrinks (f (s.chan ch))) : Preserves s (s.modChan ch f) :=
  Preserves.shrink h

theorem Preserves.keepCandidates (s : State) (ch : Channel) (keep : Candidate → Bool) :
    Preserves s (s.keepCandidates ch keep) :=
  Preserves.shrinkBy _
    ⟨rfl, rfl, rfl, rfl, rfl, rfl, List.filter_sublist, List.Sublist.refl _, id, List.Sublist.refl _⟩

theorem Preserves.emptyContext (s : State) (ch : Channel) : Preserves s (s.emptyContext ch) :=
  Preserves.shrinkBy _
    ⟨rfl, rfl, rfl, rfl, rfl, rfl, List.nil_sublist _, List.nil_sublist _, fun _ => rfl, List.Sublist.refl _⟩

theorem Preserves.removeLockouts (s : State) (n : PatternNum) : Preserves s (s.removeLockouts n) :=
  Preserves.forEach _ fun _ _ _ => Preserves.shrinkBy _
    ⟨rfl, rfl, rfl, rfl, rfl, rfl, List.Sublist.refl _, List.filter_sublist, id, List.Sublist.refl _⟩

theorem Preserves.takeHead (s : State) (ch : Channel) : Preserves s (s.takeHead ch) := by
  have latch (c : Chan) : c.Shrinks { c with latch := none } :=
    ⟨rfl, rfl, rfl, rfl, rfl, rfl, List.Sublist.refl _, List.Sublist.refl _, id, List.Sublist.refl _⟩
  unfold State.takeHead
  split
  next => exact Preserves.shrinkBy _ (latch _)
  next x rest queue =>
    refine Preserves.ite (fun _ => Preserves.shrinkBy _ (latch _)) fun _ => Preserves.shrinkBy _ ?_
    exact ⟨rfl, rfl, rfl, rfl, rfl, rfl, List.Sublist.refl _, List.Sublist.refl _, id,
      queue ▸ List.sublist_cons_self x rest⟩

theorem Preserves.flushQueue (s : State) (ch : Channel) : Preserves s (s.flushQueue ch) :=
  Preserves.shrinkBy _
    ⟨rfl, rfl, rfl, rfl, rfl, rfl, List.Sublist.refl _, List.Sublist.refl _, id, List.nil_sublist _⟩

theorem Preserves.expireGap (s : State) (ch : Channel) (n : PatternNum) (k : Nat) : Preserves s (s.expireGap ch n k) := by
  unfold State.expireGap
  split
  · exact Preserves.ite (fun _ => Preserves.shrinkBy _
      ⟨rfl, rfl, rfl, rfl, rfl, rfl, List.eraseP_sublist, List.Sublist.refl _, id, List.Sublist.refl _⟩)
      fun _ => Preserves.refl s
  · exact Preserves.refl s

theorem Preserves.expireLockout (s : State) (ch : Channel) (n : PatternNum) : Preserves s (s.expireLockout ch n) := by
  unfold State.expireLockout
  split
  · exact Preserves.ite (fun _ => Preserves.shrinkBy _
      ⟨rfl, rfl, rfl, rfl, rfl, rfl, List.Sublist.refl _, List.eraseP_sublist, id, List.Sublist.refl _⟩)
      fun _ => Preserves.refl s
  · exact Preserves.refl s

theorem Preserves.expireTail (s : State) (ch : Channel) : Preserves s (s.expireTail ch) := by
  unfold State.expireTail
  split
  · exact Preserves.ite (fun _ => Preserves.shrinkBy _
      ⟨rfl, rfl, rfl, rfl, rfl, rfl, List.Sublist.refl _, List.Sublist.refl _, fun _ => rfl, List.Sublist.refl _⟩)
      fun _ => Preserves.refl s
  · exact Preserves.refl s

theorem Preserves.writeTailWindow (s : State) (ch : Channel) (v : Byte) : Preserves s (s.writeTailWindow ch v) :=
  Preserves.shrinkBy _
    ⟨rfl, rfl, rfl, rfl, rfl, rfl, List.Sublist.refl _, List.Sublist.refl _, id, List.Sublist.refl _⟩

end Channel

end Sys2Proof.Machine

/-! The operations of the receivers, the line scanner and the outputs keep the invariants. -/

namespace Sys2Proof.Machine

-- One after another these proofs need fewer threads than the whole text would otherwise hold at once.
set_option Elab.async false

variable {s : State}

/-! ## Receivers and assemblers -/

/-- A prefix discarded leaves the assembler clear, which is sound in every mode. -/
theorem Serial.Sound.clear {mode : Mode} {x : Serial} (h : x.Sound mode) : Serial.Sound mode { x with assembler := .clear } := by
  obtain ⟨stopped, idle, markWait, -, -⟩ := h
  exact ⟨stopped, idle, markWait, by simp [Assembler.clear], fun _ => rfl⟩

/-- R11, R12: a pending prefix with its stamp, on a channel that is not in OFF. -/
theorem Serial.Sound.pend {mode : Mode} {x : Serial} (h : x.Sound mode) (on : mode ≠ .off) {a : Assembler}
    (pending : a.ext ≠ .plain ∨ a.rel = true) (stamped : a.prefixStamp ≠ none) :
    Serial.Sound mode { x with assembler := a } := by
  obtain ⟨stopped, idle, markWait, -, -⟩ := h
  exact ⟨stopped, idle, markWait, ⟨fun _ => pending, fun _ => stamped⟩, fun off => absurd off on⟩

/-- A receiver that is neither stopped before nor after, in a state that its line allows. -/
theorem Serial.Sound.receive {mode : Mode} {x : Serial} (h : x.Sound mode) {mark : Bool} {r : Reception}
    (stopped : r = .stopped ↔ x.reception = .stopped) (idle : r = .idle → mark = true)
    (markWait : r = .markWait → mark = false) : Serial.Sound mode { x with rxMark := mark, reception := r } := by
  obtain ⟨off, -, -, stamp, clear⟩ := h
  exact ⟨stopped.trans off, idle, markWait, stamp, clear⟩

theorem Preserves.discardPrefix (s : State) (i : SerialChannel) : Preserves s (s.discardPrefix i) :=
  Preserves.modSer i _ fun _ _ h => h.clear

theorem Preserves.discardPrefixOf (s : State) (ch : Channel) : Preserves s (s.discardPrefixOf ch) := by
  unfold State.discardPrefixOf
  split
  · exact Preserves.discardPrefix s _
  · exact Preserves.refl s

theorem Preserves.dropStalePrefix (s : State) (i : SerialChannel) (t : Time) : Preserves s (s.dropStalePrefix i t) :=
  Preserves.ite (fun _ => Preserves.discardPrefix s i) fun _ => Preserves.refl s

theorem Preserves.leadWith {i : SerialChannel} (on : (s.chan (serialChannel i)).mode ≠ .off) {e : Extension}
    (lead : e ≠ .plain) (t : Time) : Preserves s (s.leadWith i e t) :=
  Preserves.modSer i _ fun _ mode h => h.pend (mode ▸ on) (.inl lead) (Option.some_ne_none t)

theorem Preserves.releaseWith {i : SerialChannel} (on : (s.chan (serialChannel i)).mode ≠ .off) (t : Time) :
    Preserves s (s.modSer i fun x => { x with assembler := { x.assembler with rel := true, prefixStamp := some t } }) :=
  Preserves.modSer i _ fun _ mode h => h.pend (mode ▸ on) (.inr rfl) (Option.some_ne_none t)

theorem Preserves.endFrame {i : SerialChannel} (frame : (s.ser i).reception = .frame) (f : Frame) :
    Preserves s (s.endFrame i f) := by
  refine Preserves.trans (Preserves.modSer i _ fun _ _ h => ?_) (Preserves.arrive _ _ _)
  cases mark : f.stopMark <;> refine h.receive ?_ ?_ ?_ <;> simp [receptionAfter, frame, mark]

theorem Preserves.frameStart (s : State) (i : SerialChannel) :
    Preserves s (s.modSer i fun x =>
      { x with rxMark := false, reception := if x.reception = .idle then .frame else x.reception }) := by
  refine Preserves.modSer i _ fun _ _ h => h.receive ?_ ?_ fun _ => rfl
  · split <;> simp_all
  · split <;> simp_all

theorem Preserves.falseStart {i : SerialChannel} (frame : (s.ser i).reception = .frame) :
    Preserves s (s.modSer i fun x => { x with rxMark := true, reception := .idle }) :=
  Preserves.modSer i _ fun _ _ h => h.receive (by simp [frame]) (fun _ => rfl) (by simp)

theorem Preserves.markWaitEnd (s : State) (i : SerialChannel) :
    Preserves s (s.modSer i fun x =>
      { x with rxMark := true, reception := if x.reception = .markWait then .idle else x.reception }) := by
  refine Preserves.modSer i _ fun _ _ h => h.receive ?_ (fun _ => rfl) ?_
  · split <;> simp_all
  · split <;> simp_all

theorem Preserves.writeLineSettings (s : State) (i : SerialChannel) (v : Byte) : Preserves s (s.writeLineSettings i v) := by
  unfold State.writeLineSettings
  split
  · refine Preserves.ite (fun _ => Preserves.refl s) fun _ => Preserves.modSer i _ fun _ _ h => ?_
    obtain ⟨off, idle, markWait, stamp, clear⟩ := h
    refine ⟨?_, ?_, ?_, stamp, clear⟩
    · rw [← off]
      unfold Serial.resettle
      dsimp only
      split <;> [split; skip] <;> simp_all
    · unfold Serial.resettle
      dsimp only
      split <;> [split; skip] <;> simp_all
    · unfold Serial.resettle
      dsimp only
      split <;> [split; skip] <;> simp_all
  · exact Preserves.refl s

theorem Preserves.writePrefixWindow (s : State) (i : SerialChannel) (v : Byte) : Preserves s (s.writePrefixWindow i v) :=
  Preserves.modSer i _ fun _ _ h => h

theorem Preserves.setClass (s : State) (i : SerialChannel) (v : Byte) (c : ByteClass) : Preserves s (s.setClass i v c) :=
  Preserves.modSer i _ fun _ _ h => h

/-! ## Discrete lines -/

theorem Line.Sound.settled {l : Line} (on : l.enabled = true) (d : LineLevel) (raw : l.raw = d) :
    Line.Sound { l with debounced := some d, change := none } :=
  ⟨by simp [on], by simp, fun e h => by cases h; simp [raw]⟩

theorem Preserves.reportLine (s : State) (n : LineNum) (a : Bool) : Preserves s (s.reportLine n a) :=
  Preserves.ite (fun _ => Preserves.refl s) fun _ => Preserves.arrive s _ _

/-- R180: a pending change is a change to the raw level. -/
theorem Line.Sound.taken {l : Line} (h : l.Sound) {p : PendingChange} (pending : l.change = some p) :
    Line.Sound { l with debounced := some p.level, change := none } := by
  obtain ⟨enabled, absent, level⟩ := h
  cases debounced : l.debounced with
  | none => exact absurd ((absent debounced).symm.trans pending) (by simp)
  | some d =>
    have raw := level d debounced
    rw [pending] at raw
    have on : l.enabled = true := enabled.mpr (by simp [debounced])
    refine Line.Sound.settled on p.level ?_
    by_cases same : l.raw = d
    · simp [same] at raw
    · simpa [same] using raw.symm

theorem Preserves.takeChange (s : State) (n : LineNum) : Preserves s (s.takeChange n) := by
  unfold State.takeChange
  split
  next p pending =>
    exact Preserves.ite
      (fun _ => (Preserves.modLine n _ fun h => h.taken pending).trans (Preserves.reportLine _ _ _))
      fun _ => Preserves.refl s
  next => exact Preserves.refl s

theorem Line.Sound.changeRaw {l : Line} (h : l.Sound) {d level : LineLevel} (debounced : l.debounced = some d)
    (changes : l.raw ≠ level) (now : Time) : (l.changeRaw d level now).Sound := by
  obtain ⟨enabled, absent, pending⟩ := h
  unfold Line.changeRaw
  split
  next back =>
    refine ⟨enabled, fun none => absurd (debounced.symm.trans none) (by simp), fun e h => ?_⟩
    have same : d = e := Option.some.inj (debounced.symm.trans h)
    simp [back, same]
  next away =>
    refine ⟨enabled, fun none => absurd (debounced.symm.trans none) (by simp), fun e h => ?_⟩
    have same : d = e := Option.some.inj (debounced.symm.trans h)
    subst same
    have was := pending d debounced
    have level_raw : l.raw = d := by
      cases hl : level <;> cases hr : l.raw <;> cases hd : d <;> simp_all
    rw [if_pos level_raw, Option.map_eq_none_iff] at was
    simp [was, away]

theorem Preserves.changeRawLevel {n : LineNum} {level : LineLevel} (changes : (s.line n).raw ≠ level) :
    Preserves s (s.changeRawLevel n level) := by
  unfold State.changeRawLevel
  split
  next none =>
    refine Preserves.modLine n _ fun ⟨enabled, absent, _⟩ => ⟨enabled, absent, fun d h => ?_⟩
    exact absurd (none.symm.trans h) (by simp)
  next d debounced =>
    have changed := Preserves.modLine (s := s) n (fun l => l.changeRaw d level s.timeBase)
      fun h => h.changeRaw debounced changes s.timeBase
    exact Preserves.ite (fun _ => changed.trans (Preserves.takeChange _ n)) fun _ => changed

theorem Preserves.takeDueChanges (s : State) : Preserves s s.takeDueChanges :=
  Preserves.forEach _ fun t n _ => Preserves.takeChange t n

theorem Preserves.writeLinesEnable (s : State) (v : Byte) : Preserves s (s.writeLinesEnable v) := by
  refine Preserves.forEach _ fun t n _ => Preserves.modLine n _ fun h => ?_
  unfold Line.setEnable
  split
  next => exact ⟨by simp, by simp, fun d h => by cases h; simp⟩
  next => exact ⟨by simp, by simp, fun d h => by cases h⟩
  next => exact h

theorem Preserves.setPolarity (s : State) (n : LineNum) (a : Bool) : Preserves s (s.setPolarity n a) := by
  refine Preserves.ite (fun _ => Preserves.refl s) fun _ => ?_
  have changed := Preserves.modLine (s := s) n (fun l => { l with activeHigh := a }) fun h => h
  split
  · exact changed.trans (Preserves.reportLine _ _ _)
  · exact changed

theorem Preserves.writeLinesPolarity (s : State) (v : Byte) : Preserves s (s.writeLinesPolarity v) :=
  Preserves.forEach _ fun t n _ => Preserves.setPolarity t n _

theorem Preserves.writeDebounce (s : State) (v : Byte) : Preserves s (s.writeDebounce v) :=
  Preserves.trans (t := { s with debounce := v })
    (Same.preserves ⟨rfl, rfl, rfl, rfl, rfl, rfl, rfl, rfl, rfl, rfl, rfl, id⟩) (Preserves.takeDueChanges _)

/-! ## Outputs and the time base -/

/-- R141–R144: an output driven without a pulse, or pulsed HIGH. -/
theorem Output.Sound.drive {o : Output} (h : o.Sound) (level : LineLevel) :
    Output.Sound { o with level := level, deadline := none } :=
  ⟨fun pulsing => absurd rfl pulsing, h.2⟩

theorem Output.Sound.act {o : Output} (h : o.Sound) (m : ActionMode) (now : Time) : (o.act m now).Sound := by
  cases m with
  | set => exact h.drive _
  | clear => exact h.drive _
  | toggle => exact h.drive _
  | pulse => exact ⟨fun _ => rfl, h.2⟩

theorem Preserves.applyBatch (s : State) (batch : List (OutputNum × ActionMode)) : Preserves s (s.applyBatch batch) :=
  Preserves.forEach _ fun _ _ _ => Preserves.modOutput _ _ fun h => h.act _ _

theorem Preserves.expirePulse (s : State) (o : OutputNum) : Preserves s (s.expirePulse o) :=
  Preserves.ite (fun _ => Preserves.modOutput o _ fun h => h.drive _) fun _ => Preserves.refl s

theorem Preserves.writeOutputs (s : State) (v : Byte) : Preserves s (s.writeOutputs v) :=
  Preserves.forEach _ fun t _ _ =>
    Preserves.ite (fun _ => Preserves.modOutput _ _ fun h => h.drive _) fun _ => Preserves.refl t

theorem Preserves.writePulseWidth (s : State) (o : OutputNum) (v : Byte) : Preserves s (s.writePulseWidth o v) :=
  Preserves.ite (fun _ => Preserves.refl s) fun nonzero => Preserves.modOutput o _ fun h => ⟨h.1, nonzero⟩

/-- R71: what is stamped at or before the time base stays so. -/
theorem Preserves.tick (s : State) : Preserves s { s with timeBase := s.timeBase + 1 } where
  pending := rfl
  inReset := rfl
  capacity := id
  pool := id
  receivers := id
  lines := id
  outputs := id
  grants := id
  arrivals h ch := by
    obtain ⟨arrivals, counter, stamps, symbols, fifo, overrun⟩ := h ch
    exact ⟨arrivals, counter, stamps, fun x hx => Nat.le_succ_of_le (symbols x hx),
      fun e he => Nat.le_succ_of_le (fifo e he), overrun⟩
  contexts h := ⟨h.contexts, h.held⟩

theorem Preserves.advanceTime (s : State) : Preserves s s.advanceTime := by
  have settle : Preserves s s.settleDue :=
    (Preserves.takeDueChanges s).trans (Preserves.forEach _ fun t o _ => Preserves.expirePulse t o)
  have time : s.settleDue.timeBase = s.timeBase := settleDue_timeBase s
  have tick := settle.trans (Preserves.tick s.settleDue)
  rw [time] at tick
  exact tick

end Sys2Proof.Machine

/-! Delivery, the takes, the arbiter and the channel modes keep the invariants. -/

namespace Sys2Proof.Machine

-- One after another these proofs need fewer threads than the whole text would otherwise hold at once.
set_option Elab.async false

variable {s : State} {ch : Channel}

/-! ## A channel replaced, its mode and its ready slot too -/

/-- A change of one channel, and of the serial parts and the grant with it. -/
theorem Preserves.changeChan {d : Chan} {serial : Vector Serial 3} {g : Grant}
    (receivers : ReceiversConsistent s → ReceiversConsistent { s.setChan ch d with serial := serial })
    (grants : GrantConsistent s → GrantConsistent { s.setChan ch d with grant := g })
    (fits : (s.chan ch).Fits → d.Fits) (ordered : (s.chan ch).Ordered s.timeBase → d.Ordered s.timeBase)
    (sound : Invariants s → d.Sound s ch) (held : (s.chan ch).HoldsWithin s → d.HoldsWithin s) :
    Preserves s { s.setChan ch d with serial := serial, grant := g } := by
  have other (j : Channel) (h : j ≠ ch) : (s.setChan ch d).chan j = s.chan j := chan_setChan_other s d h
  have here : (s.setChan ch d).chan ch = d := chan_setChan_same s ch d
  constructor
  case pending => rfl
  case inReset => rfl
  case capacity =>
    exact fun ⟨chans, events⟩ =>
      ⟨forall_updated (P := fun _ (c : Chan) => c.Fits) chans other (here.symm ▸ fits (chans ch)), events⟩
  case pool => exact id
  case receivers => exact receivers
  case lines => exact id
  case outputs => exact id
  case grants => exact grants
  case arrivals =>
    exact fun h => forall_updated (P := fun _ (c : Chan) => c.Ordered s.timeBase) h other (here.symm ▸ ordered (h ch))
  case contexts =>
    exact fun h =>
      ⟨forall_updated (P := fun j (c : Chan) => c.Sound s j) h.contexts other (here.symm ▸ sound h),
        forall_updated (P := fun _ (c : Chan) => c.HoldsWithin s) h.held other (here.symm ▸ held (h.held ch))⟩

/-- A channel whose mode is OFF or not as before has the receiver that it had. -/
theorem receiversConsistent_setChan {d : Chan} (mode : d.mode = (s.chan ch).mode) :
    ReceiversConsistent s → ReceiversConsistent { s.setChan ch d with serial := s.serial } := by
  have modes (j : Channel) : ((s.setChan ch d).chan j).mode = (s.chan j).mode := by
    rw [chan_setChan]
    split
    next same => rw [same, mode]
    next => rfl
  intro h i
  have := h i
  rw [← modes] at this
  exact this

/-! ## The arbiter (R47, R172) -/

/-- R172: a decision is for a claimant that claims. -/
theorem decision_claims {c : Claimant} (h : s.decision = some c) :
    match c with
    | .matchUnit => MatchWaits s
    | .table => TableWaits s := by
  unfold State.decision at h
  cases m : s.matchClaims <;> cases t : s.tableClaims <;> rw [m, t] at h
  · cases h
  · cases h
    exact (tableClaims_iff s).mp t
  · cases h
    exact (matchClaims_iff s).mp m
  · cases c
    · exact (matchClaims_iff s).mp m
    · exact (tableClaims_iff s).mp t

theorem decision_none (h : s.decision = none) : ¬MatchWaits s ∧ ¬TableWaits s := by
  rw [← matchClaims_iff, ← tableClaims_iff]
  unfold State.decision at h
  cases m : s.matchClaims <;> cases t : s.tableClaims <;> rw [m, t] at h
  · simp
  · cases h
  · cases h
  · dsimp only at h
    split at h <;> cases h

/-- The arbiter leaves no claim without a decision on a free memory. -/
theorem arbitrate_grants (placed : ∀ j, (s.chan j).ready ≠ none → (s.chan j).mode = .matching)
    (matchUnit : s.grant = .decided .matchUnit → MatchWaits s) (table : s.grant = .decided .table → TableWaits s) :
    GrantConsistent s.arbitrate := by
  unfold State.arbitrate
  split
  next free =>
    split
    next c decided =>
      have claims := decision_claims decided
      refine ⟨placed, nofun, ?_, ?_⟩
      · rintro ⟨⟩
        exact claims
      · rintro ⟨⟩
        exact claims
    next none => exact ⟨placed, fun _ => decision_none none, matchUnit, table⟩
  next taken => exact ⟨placed, fun free => absurd free taken, matchUnit, table⟩

theorem arbitrate_eq (s : State) : s.arbitrate = { s with grant := s.arbitrate.grant } := by
  unfold State.arbitrate
  split
  · split <;> rfl
  · rfl

/-- A change of claims and grant alone. -/
theorem Preserves.claims {g : Grant} {a : Claimant} {p : Option Byte} {b : Bool}
    (grants : GrantConsistent s →
      GrantConsistent { s with grant := g, lastGrant := a, pendingCommand := p, compacting := b }) :
    Preserves s { s with grant := g, lastGrant := a, pendingCommand := p, compacting := b } where
  pending := rfl
  inReset := rfl
  capacity := id
  pool := id
  receivers := id
  lines := id
  outputs := id
  grants := grants
  arrivals := id
  contexts h := ⟨h.contexts, h.held⟩

/-- R149: a command written claims the memory. -/
theorem Preserves.writeCommand (s : State) (v : Byte) : Preserves s (s.writeCommand v) := by
  refine Preserves.ite (fun _ => Preserves.refl s) fun _ => ?_
  rw [arbitrate_eq]
  refine Preserves.claims fun ⟨placed, _, matchUnit, _⟩ => ?_
  have decided := arbitrate_grants (s := { s with pendingCommand := some v }) placed matchUnit
    fun _ => .inl (Option.some_ne_none v)
  rw [arbitrate_eq] at decided
  exact decided

/-- R172: at the end of a grant the arbiter decides anew. -/
theorem Preserves.endGrant (s : State) : Preserves s s.endGrant := by
  unfold State.endGrant
  split
  next c held =>
    rw [arbitrate_eq]
    refine Preserves.claims fun ⟨placed, _, _, _⟩ => ?_
    have decided := arbitrate_grants (s := { s with grant := .free }) placed nofun nofun
    rw [arbitrate_eq] at decided
    exact decided
  next => exact Preserves.refl s
  next => exact Preserves.refl s

/-- While a grant holds the memory the claims are free (R172). -/
theorem Preserves.hold (s : State) (a c : Claimant) (p : Option Byte) (b : Bool) :
    Preserves s { s with grant := .held a, lastGrant := c, pendingCommand := p, compacting := b } :=
  Preserves.claims fun ⟨placed, _, _, _⟩ => ⟨placed, nofun, nofun, nofun⟩

/-! ## Delivery (R90–R107) -/

/-- What the delivery of `x` may leave of a channel `c`. -/
structure Chan.Delivered (s : State) (x : Symbol) (c d : Chan) : Prop where
  mode : d.mode = c.mode
  ready : d.ready = c.ready
  fifo : d.fifo = c.fifo
  overrunPending : d.overrunPending = c.overrunPending
  arrivalCounter : d.arrivalCounter = c.arrivalCounter
  holdLimit : d.holdLimit = c.holdLimit
  lockouts : d.lockouts = c.lockouts
  candidates : d.candidates.Sublist c.candidates
  tail : c.tail = none → d.tail = none
  queue : d.queue = c.queue ∨ c.queue.length < 32 ∧ d.queue = c.queue ++ [x]
  held : c.HoldsWithin s → d.HoldsWithin s

theorem Same.offerHoldCancels (s : State) (ch : Channel) (gone : List Candidate) (t : Time) :
    Same s (s.offerHoldCancels ch gone t) := by
  induction gone generalizing s with
  | nil => exact Same.refl s
  | cons c gone ih => exact (Same.offer s _).trans (ih _)

theorem Same.setChan {t : State} (h : Same s t) (ch : Channel) (d : Chan) : Same (s.setChan ch d) (t.setChan ch d) :=
  ⟨h.pending, h.inReset, by simp only [State.setChan, h.chans], h.serial, h.lines, h.slots, h.outputs, h.grant,
    h.pendingCommand, h.compacting, h.timeBase, h.room⟩

theorem loseSymbol_delivered (s : State) (ch : Channel) (x : Symbol) :
    ∃ d, (s.chan ch).Delivered s x d ∧ Same (s.setChan ch d) (s.loseSymbol ch x) := by
  unfold State.loseSymbol
  split
  · refine ⟨s.chan ch, ⟨rfl, rfl, rfl, rfl, rfl, rfl, rfl, .refl _, id, .inl rfl, id⟩, ?_⟩
    rw [show s.setChan ch (s.chan ch) = s from modChan_eq_self s (f := id) rfl]
    exact Same.refl s
  · exact ⟨{ s.chan ch with lost := true }, ⟨rfl, rfl, rfl, rfl, rfl, rfl, rfl, .refl _, id, .inl rfl, id⟩,
      Same.offer (s.setChan ch { s.chan ch with lost := true }) _⟩

theorem appendSymbol_delivered {x : Symbol} (room : (s.chan ch).queue.length < 32) :
    ∃ d, (s.chan ch).Delivered s x d ∧ Same (s.setChan ch d) (s.appendSymbol ch x) := by
  obtain ⟨gone, cs, ⟨fewer, _, _, within, _⟩, enforced⟩ := enforceHold_enforces
    (s.modChan ch fun c => { c with queue := c.queue ++ [x] }) ch x.stamp (s.chan ch).candidates.length (by
      rw [chan_modChan_same]
      exact List.length_filter_le _ _)
  rw [chan_modChan_same] at fewer within
  rw [modChan_modChan] at enforced
  refine ⟨{ s.chan ch with queue := (s.chan ch).queue ++ [x], candidates := cs }, ⟨rfl, rfl, rfl, rfl, rfl, rfl, rfl, fewer,
    id, .inr ⟨room, rfl⟩, fun ⟨low, high, _⟩ => ⟨low, high, within⟩⟩, ?_⟩
  unfold State.appendSymbol
  rw [enforced]
  exact Same.offerHoldCancels _ ch gone x.stamp

theorem storeSymbol_delivered (s : State) (ch : Channel) (x : Symbol) :
    ∃ d, (s.chan ch).Delivered s x d ∧ Same (s.setChan ch d) (s.storeSymbol ch x) := by
  unfold State.storeSymbol
  split
  next room => exact appendSymbol_delivered room
  next => exact loseSymbol_delivered s ch x

theorem deliver_delivered (s : State) (ch : Channel) (x : Symbol) :
    ∃ d, (s.chan ch).Delivered s x d ∧ Same (s.setChan ch d) (s.deliver ch x) := by
  unfold State.deliver
  split
  next t isTail =>
    split
    · exact ⟨{ s.chan ch with tail := t.countDown }, ⟨rfl, rfl, rfl, rfl, rfl, rfl, rfl, .refl _,
        fun none => absurd (isTail.symm.trans none) (by simp), .inl rfl, id⟩,
        Same.refl (s.setChan ch { s.chan ch with tail := t.countDown })⟩
    · obtain ⟨d, h, same⟩ := storeSymbol_delivered (s.modChan ch fun c => { c with tail := none }) ch x
      rw [chan_modChan_same] at h
      rw [State.modChan, setChan_setChan] at same
      exact ⟨d, ⟨h.mode, h.ready, h.fifo, h.overrunPending, h.arrivalCounter, h.holdLimit, h.lockouts, h.candidates,
        fun _ => h.tail rfl, h.queue, h.held⟩, same⟩
  next => exact storeSymbol_delivered s ch x

/-! ## Takes (R5–R21) -/

/-- What a take of an entry or of an overrun leaves of a channel, the arrival number used: the head entry `e` gone, or
the pending overrun. -/
structure Chan.Took (c d : Chan) (e : RawEntry) : Prop where
  on : c.mode ≠ .off
  idle : c.ready = none
  head : c.fifo.head? = some e
  eq : ∃ rest, (rest = c.fifo ∨ rest = c.fifo.tail)
    ∧ d = { c with fifo := rest, overrunPending := false, arrivalCounter := c.arrivalCounter + 1 }

/-- A symbol newer than those of a channel, and no younger than the entries that wait, put behind its symbols. -/
theorem Chan.Ordered.push {now : Time} {c d : Chan} (h : c.Ordered now) {x : Symbol}
    (newer : ∀ y ∈ c.symbols, y.arrival < x.arrival ∧ y.stamp ≤ x.stamp) (older : ∀ e ∈ d.fifo, x.stamp ≤ e.stamp)
    (rest : d.fifo.Sublist c.fifo) (numbered : x.arrival < d.arrivalCounter) (counter : c.arrivalCounter ≤ d.arrivalCounter)
    (past : x.stamp ≤ now) (symbols : d.symbols.Sublist (c.symbols ++ [x]))
    (overrun : d.overrunPending = true → 8 ≤ d.fifo.length) : d.Ordered now := by
  obtain ⟨arrivals, below, stamps, stamped, entries, _⟩ := h
  obtain ⟨symbolStamps, entryStamps, across⟩ := List.pairwise_append.mp stamps
  refine ⟨List.Pairwise.sublist (symbols.map _) ?_, fun y hy => ?_, List.Pairwise.sublist ((symbols.map _).append (.refl _)) ?_,
    fun y hy => ?_, fun e he => entries e (rest.subset he), overrun⟩
  · rw [List.map_append, List.pairwise_append]
    refine ⟨arrivals, List.pairwise_singleton _ _, ?_⟩
    simpa using fun y hy => (newer y hy).1
  · rcases List.mem_append.mp (symbols.subset hy) with hy | hy
    · exact (below y hy).trans_le counter
    · rwa [List.mem_singleton.mp hy]
  · rw [List.map_append, List.append_assoc, List.pairwise_append]
    refine ⟨symbolStamps, ?_, ?_⟩
    · rw [List.map_cons, List.map_nil, List.singleton_append, List.pairwise_cons]
      refine ⟨?_, entryStamps.sublist (rest.map _)⟩
      simpa using older
    · intro a ha b hb
      rcases List.mem_append.mp hb with hb | hb
      · obtain ⟨y, hy, rfl⟩ := List.mem_map.mp ha
        rw [List.mem_singleton.mp hb]
        exact (newer y hy).2
      · exact across a ha b ((rest.map _).subset hb)
  · rcases List.mem_append.mp (symbols.subset hy) with hy | hy
    · exact stamped y hy
    · rwa [List.mem_singleton.mp hy]

/-- The symbol of a take stands behind the symbols made before and before the entries that wait. -/
theorem Chan.Took.ordered {c d : Chan} {e : RawEntry} {now : Time} (took : c.Took d e) (h : c.Ordered now)
    {x : Symbol} (arrival : x.arrival = c.arrivalCounter) (stamp : x.stamp = e.stamp) {f : Chan}
    (fifo : f.fifo = d.fifo) (counter : f.arrivalCounter = d.arrivalCounter) (overrun : f.overrunPending = d.overrunPending)
    (symbols : f.symbols.Sublist (c.symbols ++ [x])) : f.Ordered now := by
  obtain ⟨rest, which, rfl⟩ := took.eq
  obtain ⟨tail, fifo_eq⟩ := List.head?_eq_some_iff.mp took.head
  have isRest : rest.Sublist c.fifo := by
    rcases which with rfl | rfl
    · exact .refl _
    · exact List.tail_sublist _
  obtain ⟨_, below, stamps, _, entries, _⟩ := id h
  have head : e ∈ c.fifo := List.mem_of_mem_head? took.head
  have behind (a : RawEntry) (ha : a ∈ c.fifo) : e.stamp ≤ a.stamp := by
    have ordered := (List.pairwise_append.mp stamps).2.1
    rw [fifo_eq, List.map_cons, List.pairwise_cons] at ordered
    rcases List.mem_cons.mp (fifo_eq ▸ ha) with rfl | later
    · exact le_rfl
    · exact ordered.1 _ (List.mem_map_of_mem later)
  refine h.push (fun y hy => ⟨arrival ▸ below y hy, ?_⟩) (fun a ha => ?_) (fifo ▸ isRest) ?_ ?_ (stamp ▸ entries e head)
    symbols (by simp [overrun])
  · rw [stamp]
    exact (List.pairwise_append.mp stamps).2.2 _ (List.mem_map_of_mem hy) _ (List.mem_map_of_mem head)
  · rw [stamp]
    exact behind a (isRest.subset ((show f.fifo = rest from fifo) ▸ ha))
  · rw [arrival, counter]
    exact Nat.lt_succ_self _
  · rw [counter]
    exact Nat.le_succ _

end Sys2Proof.Machine

/-! The takes and the channel modes keep the invariants. -/

namespace Sys2Proof.Machine

-- One after another these proofs need fewer threads than the whole text would otherwise hold at once.
set_option Elab.async false

variable {s : State} {ch : Channel}

/-! ## Takes (R5–R21) -/

theorem takeable?_congr {t : State} (same : t.chan ch = s.chan ch) : t.takeable? ch = s.takeable? ch := by
  have can : t.canTake ch = s.canTake ch := by rw [State.canTake, State.canTake, same]
  rw [State.takeable?, State.takeable?, can, same]

theorem canTake_iff : s.canTake ch = true ↔
    (s.chan ch).mode ≠ .off ∧ (s.chan ch).ready = none ∧ (s.chan ch).fifo ≠ [] := by
  simp [State.canTake, and_assoc]

theorem takeable?_some {e : RawEntry} (h : s.takeable? ch = some e) :
    (s.chan ch).mode ≠ .off ∧ (s.chan ch).ready = none ∧ (s.chan ch).overrunPending = false
      ∧ (s.chan ch).fifo.head? = some e := by
  unfold State.takeable? at h
  split at h
  next can =>
    rw [Bool.and_eq_true, canTake_iff] at can
    obtain ⟨⟨on, idle, _⟩, noOverrun⟩ := can
    exact ⟨on, idle, by simpa using noOverrun, h⟩
  next => cases h

/-- The symbol of a take waits in the ready slot with its claim, or is delivered (R4, R108). -/
theorem Preserves.placeSymbol {d : Chan} {e : RawEntry} (took : (s.chan ch).Took d e) {x : Symbol}
    (arrival : x.arrival = (s.chan ch).arrivalCounter) (stamp : x.stamp = e.stamp) :
    Preserves s ((s.setChan ch d).placeSymbol ch x) := by
  have ordered {f : Chan} (h : (s.chan ch).Ordered s.timeBase) := took.ordered (f := f) h arrival stamp
  obtain ⟨rest, which, rfl⟩ := took.eq
  have shorter : rest.length ≤ (s.chan ch).fifo.length := by
    rcases which with rfl | rfl
    · exact le_rfl
    · exact (List.tail_sublist _).length_le
  have noSymbol : (s.chan ch).ready.toList = [] := by rw [took.idle]; rfl
  unfold State.placeSymbol
  refine Preserves.ite (fun matching => ?_) fun bypass => ?_
  · rw [chan_setChan_same] at matching
    rw [arbitrate_eq, State.modChan, setChan_setChan, chan_setChan_same]
    refine Preserves.changeChan (serial := s.serial) (receiversConsistent_setChan rfl) ?_ ?_ ?_ ?_ id
    · rintro ⟨placed, _, waits, table⟩
      refine arbitrate_eq _ ▸ arbitrate_grants (fun j => ?_) (fun h => ?_) table
      · rw [chan_setChan]
        split
        · exact fun _ => matching
        · exact placed j
      · refine ⟨ch, ?_⟩
        rw [ReadyChannel, chan_setChan_same]
        exact ⟨matching, Option.some_ne_none x⟩
    · exact fun ⟨fifo, queue, candidates⟩ => ⟨shorter.trans fifo, queue, candidates⟩
    · intro h
      refine ordered h rfl rfl rfl ?_
      simp [Chan.symbols, noSymbol]
    · intro all
      obtain ⟨empty, allowed, order, nodup, lockouts⟩ := contextsConsistent_iff.mp all.contexts ch
      refine ⟨empty, fun b hb => ?_, order, nodup, lockouts⟩
      obtain ⟨stored, birth, _, free⟩ := allowed b hb
      refine ⟨stored, Nat.lt_succ_of_lt birth, fun y hy => ?_, free⟩
      cases hy
      rwa [arrival]
  · obtain ⟨f, delivered, same⟩ := deliver_delivered (s.setChan ch { s.chan ch with
      fifo := rest, overrunPending := false, arrivalCounter := (s.chan ch).arrivalCounter + 1 }) ch x
    rw [chan_setChan_same] at delivered
    rw [setChan_setChan] at same
    refine Preserves.trans (Preserves.setChan delivered.mode delivered.ready ?_ ?_ ?_ delivered.held) same.preserves
    · rintro ⟨fifo, queue, candidates⟩
      refine ⟨delivered.fifo.symm ▸ shorter.trans fifo, ?_, delivered.candidates.length_le.trans candidates⟩
      rcases delivered.queue with same | ⟨room, appended⟩
      · exact same.symm ▸ queue
      · rw [appended, List.length_append, List.length_singleton]
        exact room
    · intro h
      refine ordered h delivered.fifo delivered.arrivalCounter delivered.overrunPending ?_
      have ready : f.ready.toList = [] := by rw [delivered.ready, noSymbol]
      simp only [Chan.symbols, noSymbol, ready, List.append_nil]
      rcases delivered.queue with same | ⟨_, appended⟩
      · rw [same]
        exact List.sublist_append_left ..
      · exact appended ▸ List.Sublist.refl _
    · rintro ⟨empty, allowed, order, nodup, lockouts⟩
      refine ⟨fun off => ?_, fun b hb => ?_, order.sublist delivered.candidates, delivered.lockouts.symm ▸ nodup,
        delivered.lockouts.symm ▸ lockouts⟩
      · obtain ⟨noCandidates, noLockouts, noTail⟩ := empty (delivered.mode ▸ off)
        exact ⟨List.sublist_nil.mp (noCandidates ▸ delivered.candidates), delivered.lockouts.trans noLockouts,
          delivered.tail noTail⟩
      · obtain ⟨stored, birth, _, free⟩ := allowed b (delivered.candidates.subset hb)
        refine ⟨stored, delivered.arrivalCounter.symm ▸ Nat.lt_succ_of_lt birth, fun y hy => ?_,
          delivered.lockouts.symm ▸ free⟩
        rw [delivered.ready, took.idle] at hy
        cases hy

/-- The entry at the head is taken and its symbol placed. -/
theorem Preserves.takeSymbol {e : RawEntry} (takeable : s.takeable? ch = some e) {x : ArrivalNum → Symbol}
    (arrival : ∀ n, (x n).arrival = n) (stamp : ∀ n, (x n).stamp = e.stamp) :
    Preserves s ((s.popRaw ch).makeSymbol ch x) := by
  obtain ⟨on, idle, noOverrun, head⟩ := takeable?_some takeable
  unfold State.makeSymbol State.popRaw
  rw [modChan_modChan, chan_modChan_same]
  refine Preserves.placeSymbol (e := e) ⟨on, idle, head, _, .inr rfl, ?_⟩ (arrival _) (stamp _)
  rw [← noOverrun]

/-- R20: an overrun is taken and its symbol placed; the head entry stays. -/
theorem Preserves.takeOverrunSymbol {e : RawEntry} (can : s.canTake ch = true) (head : (s.chan ch).fifo.head? = some e)
    {x : ArrivalNum → Symbol} (arrival : ∀ n, (x n).arrival = n) (stamp : ∀ n, (x n).stamp = e.stamp) :
    Preserves s (State.makeSymbol (s.modChan ch fun c => { c with overrunPending := false }) ch x) := by
  obtain ⟨on, idle, _⟩ := canTake_iff.mp can
  unfold State.makeSymbol
  rw [modChan_modChan, chan_modChan_same]
  exact Preserves.placeSymbol (e := e) ⟨on, idle, head, _, .inl rfl, rfl⟩ (arrival _) (stamp _)

theorem Preserves.afterByteTake {i : SerialChannel} {e : RawEntry} (takeable : s.takeable? (serialChannel i) = some e)
    (t : Time) : Preserves s (s.afterByteTake i t) :=
  (Preserves.popRaw (takeable?_some takeable).2.2.1).trans (Preserves.dropStalePrefix _ i t)

theorem afterByteTake_chan_mode (i : SerialChannel) (t : Time) :
    ((s.afterByteTake i t).chan (serialChannel i)).mode = (s.chan (serialChannel i)).mode := by
  rw [State.afterByteTake, chan_dropStalePrefix, State.popRaw, chan_modChan_same]

theorem Preserves.takeByte {i : SerialChannel} {cls : ByteClass} {act : State → Byte → Time → State}
    (acts : ∀ v t, s.takeable? (serialChannel i) = some ⟨.byte v, t⟩ → Preserves s (act (s.afterByteTake i t) v t)) :
    Preserves s (s.takeByte i cls act) := by
  unfold State.takeByte
  split
  next v t takeable => exact Preserves.ite (fun _ => acts v t takeable) fun _ => Preserves.refl s
  next => exact Preserves.refl s

theorem Preserves.takePlain (s : State) (i : SerialChannel) : Preserves s (s.takePlain i) := by
  refine Preserves.takeByte fun v t takeable => ?_
  have discarded := (Preserves.dropStalePrefix s i t).trans (Preserves.discardPrefix _ i)
  have commutes : (s.afterByteTake i t).discardPrefix i =
      ((s.dropStalePrefix i t).discardPrefix i).popRaw (serialChannel i) := by
    have same : (s.popRaw (serialChannel i)).ser i = s.ser i := rfl
    unfold State.afterByteTake State.dropStalePrefix
    rw [same]
    split <;> rfl
  rw [commutes]
  refine discarded.trans (Preserves.takeSymbol (e := ⟨.byte v, t⟩) ?_ (fun _ => rfl) fun _ => rfl)
  rw [← takeable]
  exact takeable?_congr (chan_dropStalePrefix s i t _)

theorem Preserves.takeLead (s : State) (i : SerialChannel) : Preserves s (s.takeLead i) := by
  have lead {v : Byte} {t : Time} (takeable : s.takeable? (serialChannel i) = some ⟨.byte v, t⟩) {e : Extension}
      (lead : e ≠ .plain) : Preserves s ((s.afterByteTake i t).leadWith i e t) :=
    (Preserves.afterByteTake takeable t).trans (Preserves.leadWith
      ((afterByteTake_chan_mode i t).symm ▸ (takeable?_some takeable).1) lead t)
  unfold State.takeLead
  split
  next v t takeable =>
    split
    · exact lead takeable (by decide)
    · exact lead takeable (by decide)
    · exact Preserves.refl s
  next => exact Preserves.refl s

theorem Preserves.takeRelease (s : State) (i : SerialChannel) : Preserves s (s.takeRelease i) :=
  Preserves.takeByte fun _ t takeable => (Preserves.afterByteTake takeable t).trans (Preserves.releaseWith
    ((afterByteTake_chan_mode i t).symm ▸ (takeable?_some takeable).1) t)

theorem Preserves.takeDrop (s : State) (i : SerialChannel) : Preserves s (s.takeByte i .drop fun u _ _ => u) :=
  Preserves.takeByte fun _ t takeable => Preserves.afterByteTake takeable t

theorem Preserves.takeError (s : State) (i : SerialChannel) : Preserves s (s.takeError i) := by
  unfold State.takeError
  split
  next v type t takeable =>
    have offered := (Preserves.discardPrefix s i).trans
      (Preserves.offer _ (channelOffer .lineError (serialChannel i) t))
    have commutes : State.offer ((s.popRaw (serialChannel i)).discardPrefix i)
          (channelOffer .lineError (serialChannel i) t) =
        State.popRaw ((s.discardPrefix i).offer (channelOffer .lineError (serialChannel i) t)) (serialChannel i) :=
      offer_modChan (s.discardPrefix i) (serialChannel i) (fun c => { c with fifo := c.fifo.tail }) _
    rw [commutes]
    refine offered.trans (Preserves.takeSymbol (e := ⟨.error v type, t⟩) ?_ (fun _ => rfl) fun _ => rfl)
    rw [← takeable]
    exact takeable?_congr (chan_offer _ _ _)
  next => exact Preserves.refl s

theorem Preserves.takeBreak (s : State) (i : SerialChannel) : Preserves s (s.takeBreak i) := by
  unfold State.takeBreak
  split
  next t takeable =>
    exact (Preserves.discardPrefix s i).trans
      (Preserves.takeSymbol (s := s.discardPrefix i) (e := ⟨.brk, t⟩) takeable (fun _ => rfl) fun _ => rfl)
  next => exact Preserves.refl s

theorem Preserves.takeOverrun (s : State) (ch : Channel) : Preserves s (s.takeOverrun ch) := by
  unfold State.takeOverrun
  split
  next e rest can head =>
    have can : s.canTake ch = true := (Bool.and_eq_true _ _ ▸ can).1
    have head : (s.chan ch).fifo.head? = some e := by rw [head]; rfl
    cases serial : serialOf? ch with
    | some i =>
      have discard (u : State) : u.discardPrefixOf ch = u.discardPrefix i := by
        simp only [State.discardPrefixOf, serial]
      rw [discard]
      exact (Preserves.discardPrefix s i).trans
        (Preserves.takeOverrunSymbol (s := s.discardPrefix i) can head (fun _ => rfl) fun _ => rfl)
    | none =>
      have discard (u : State) : u.discardPrefixOf ch = u := by
        simp only [State.discardPrefixOf, serial]
      rw [discard]
      exact Preserves.takeOverrunSymbol can head (fun _ => rfl) fun _ => rfl
  next => exact Preserves.refl s

theorem Preserves.takeLine (s : State) : Preserves s s.takeLine := by
  unfold State.takeLine
  split
  next num active t takeable => exact Preserves.takeSymbol takeable (fun _ => rfl) fun _ => rfl
  next => exact Preserves.refl s

end Sys2Proof.Machine

/-! The channel modes, the hold limit and the table controller's slots keep the invariants. -/

namespace Sys2Proof.Machine

-- One after another these proofs need fewer threads than the whole text would otherwise hold at once.
set_option Elab.async false

variable {s : State} {ch : Channel}

/-! ## Grants while a channel changes (R172) -/

theorem matchPass_held (s : State) : s.matchPass = s ∨ s.matchPass.grant = .held .matchUnit := by
  unfold State.matchPass
  split
  · split
    · split
      · exact .inr (runPass_grant _ _ _)
      · exact .inl rfl
    · exact .inl rfl
  · exact .inl rfl

theorem takeCommand_held (s : State) (code : Byte) (work : State → Taken) :
    s.takeCommand code work = s ∨ (s.takeCommand code work).grant = .held .table := by
  unfold State.takeCommand
  split
  · exact .inr rfl
  · exact .inl rfl

theorem takeStep_held (s : State) : s.takeStep.grant = .held .table := by
  unfold State.takeStep
  split
  · exact (compactionMove_grant _ _).1
  · rw [endCompaction_grant]
    rfl

/-- The event of a grant is not taken, or the memory is held after it. -/
theorem grantTaken_cases (s : State) : s.grantTaken = s ∨ ∃ a, s.grantTaken.grant = .held a := by
  unfold State.grantTaken
  split
  · exact (matchPass_held s).imp_right fun held => ⟨_, held⟩
  · unfold State.tableEvent
    split
    · exact (takeCommand_held s _ _).imp_right fun held => ⟨_, held⟩
    · split
      · exact .inr ⟨_, takeStep_held s⟩
      · exact .inl rfl
  · exact .inl rfl
  · exact .inl rfl

/-- With the grants consistent, no event of a grant is outstanding after the grant's event. -/
theorem settled_grantTaken (consistent : GrantConsistent s.grantTaken) : Settled s.grantTaken := by
  have absurdly (a : Claimant) (decided : s.grantTaken.grant = .decided a) : False := by
    obtain same | ⟨b, held⟩ := grantTaken_cases s
    · have held := (grantTaken_held (same ▸ decided) (same ▸ consistent)).1
      rw [decided] at held
      cases held
    · rw [decided] at held
      cases held
  exact ⟨absurdly _, absurdly _⟩

/-- A channel that leaves its claim, or takes up none: what the others claim stays, and no grant was made. -/
theorem grantConsistent_setChan {d : Chan} (settled : Settled s) (consistent : GrantConsistent s) (idle : d.ready = none) :
    GrantConsistent (s.setChan ch d) := by
  obtain ⟨placed, free, _, _⟩ := consistent
  have waits : MatchWaits (s.setChan ch d) → MatchWaits s := by
    rintro ⟨j, matching, ready⟩
    rw [chan_setChan] at matching ready
    split at ready
    · exact absurd idle ready
    next other =>
      rw [if_neg other] at matching
      exact ⟨j, matching, ready⟩
  refine ⟨fun j ready => ?_, fun isFree => ⟨fun h => (free isFree).1 (waits h), (free isFree).2⟩,
    fun h => absurd h settled.1, fun h => absurd h settled.2⟩
  rw [chan_setChan] at ready ⊢
  split at ready
  · exact absurd idle ready
  next other =>
    rw [if_neg other]
    exact placed j ready

/-! ## Modes (R186–R189) -/

theorem ser_serialChanged (t : State) (f : Serial → Serial) (i : SerialChannel) :
    State.ser { t with serial := s.serialChanged ch f } i = if serialChannel i = ch then f (s.ser i) else s.ser i := by
  simp [State.ser, State.serialChanged]

/-- A channel and its receiver changed together. -/
theorem receiversConsistent_changed {d : Chan} {f : Serial → Serial}
    (sound : ∀ x : Serial, x.Sound (s.chan ch).mode → (f x).Sound d.mode) (h : ReceiversConsistent s) :
    ReceiversConsistent { s.setChan ch d with serial := s.serialChanged ch f } := by
  rw [receiversConsistent_iff]
  intro i
  have mode : State.chan { s.setChan ch d with serial := s.serialChanged ch f } (serialChannel i) =
      (s.setChan ch d).chan (serialChannel i) := rfl
  rw [ser_serialChanged, mode, chan_setChan]
  split
  next here =>
    refine sound _ ?_
    rw [← here]
    exact h i
  next => exact h i

/-- A channel whose receiver is sound in the new mode too. -/
theorem receiversConsistent_mode {d : Chan} (sound : ∀ x : Serial, x.Sound (s.chan ch).mode → x.Sound d.mode) :
    ReceiversConsistent s → ReceiversConsistent { s.setChan ch d with serial := s.serial } := by
  intro h
  rw [receiversConsistent_iff]
  intro i
  have mode : State.chan { s.setChan ch d with serial := s.serial } (serialChannel i) =
      (s.setChan ch d).chan (serialChannel i) := rfl
  rw [mode, chan_setChan]
  split
  next here =>
    refine sound _ ?_
    rw [← here]
    exact h i
  next => exact h i

/-- The symbols that go with a channel's queue, or part of them. -/
theorem Chan.Ordered.sublist {now : Time} {c d : Chan} (h : c.Ordered now) (symbols : d.symbols.Sublist c.symbols)
    (fifo : d.fifo.Sublist c.fifo) (counter : d.arrivalCounter = c.arrivalCounter)
    (overrun : d.overrunPending = true → 8 ≤ d.fifo.length) : d.Ordered now := by
  obtain ⟨arrivals, below, stamps, stamped, entries, _⟩ := h
  exact ⟨arrivals.sublist (symbols.map _), fun y hy => counter ▸ below y (symbols.subset hy),
    stamps.sublist ((symbols.map _).append (fifo.map _)), fun y hy => stamped y (symbols.subset hy),
    fun e he => entries e (fifo.subset he), overrun⟩

theorem Preserves.modeOff (settled : GrantConsistent s → Settled s) : Preserves s (s.modeOff ch) := by
  rw [modeOff_eq]
  refine Preserves.changeChan (g := s.grant) (receiversConsistent_changed fun x h => ?_)
    (fun h => grantConsistent_setChan (settled h) h rfl) ?_ ?_ ?_ ?_
  · exact ⟨by simp, by simp, by simp, by simp [Assembler.clear], fun _ => rfl⟩
  · exact fun ⟨_, queue, _⟩ => ⟨Nat.zero_le _, queue, Nat.zero_le _⟩
  · exact fun h => h.sublist ((List.Sublist.refl _).append (List.nil_sublist _)) (List.nil_sublist _) rfl nofun
  · exact fun _ => ⟨fun _ => ⟨rfl, rfl, rfl⟩, nofun, List.Pairwise.nil, List.nodup_nil, nofun⟩
  · exact fun ⟨low, high, within⟩ => ⟨low, high, (heldUnder_mono s (.refl _) (List.nil_sublist _)).trans within⟩

theorem Preserves.modeLeaveOff {m : Mode} (settled : GrantConsistent s → Settled s) (off : (s.chan ch).mode = .off)
    (active : m ≠ .off) : Preserves s (s.modeLeaveOff ch m) := by
  rw [modeLeaveOff_eq]
  have idle (h : GrantConsistent s) : (s.chan ch).ready = none := by
    by_contra ready
    exact absurd (off.symm.trans (h.1 ch ready)) (by decide)
  refine Preserves.changeChan (g := s.grant) (receiversConsistent_changed fun x h => ?_)
    (fun h => grantConsistent_setChan (settled h) h (idle h)) id ?_ ?_ id
  · obtain ⟨_, _, _, stamp, _⟩ := h
    refine ⟨?_, ?_, ?_, stamp, fun h => absurd h active⟩
    · dsimp only
      split <;> simp [active]
    · dsimp only
      split <;> simp_all
    · dsimp only
      split <;> simp_all
  · exact fun ⟨arrivals, below, stamps, stamped, entries, overrun⟩ =>
      ⟨arrivals, below, stamps, stamped, entries, overrun⟩
  · intro all
    obtain ⟨empty, _⟩ := contextsConsistent_iff.mp all.contexts ch
    obtain ⟨noCandidates, noLockouts, noTail⟩ := empty (by rw [off]; decide)
    refine ⟨fun _ => ⟨noCandidates, noLockouts, noTail⟩, ?_, ?_, ?_, ?_⟩
    · simp [noCandidates]
    · simp [noCandidates]
    · simp [noLockouts]
    · simp [noLockouts]

theorem Preserves.modeBypassToMatch (settled : GrantConsistent s → Settled s) (bypass : (s.chan ch).mode = .bypass) :
    Preserves s (s.modeBypassToMatch ch) := by
  have idle (h : GrantConsistent s) : (s.chan ch).ready = none := by
    by_contra ready
    exact absurd (bypass.symm.trans (h.1 ch ready)) (by decide)
  refine Preserves.changeChan (serial := s.serial) (g := s.grant) ?_
    (fun h => grantConsistent_setChan (settled h) h (idle h)) id ?_ ?_ id
  · refine receiversConsistent_mode fun x h => ?_
    rw [bypass] at h
    simpa [Serial.Sound] using h
  · exact fun ⟨arrivals, below, stamps, stamped, entries, overrun⟩ =>
      ⟨arrivals, below, stamps, stamped, entries, overrun⟩
  · intro all
    obtain ⟨empty, _⟩ := contextsConsistent_iff.mp all.contexts ch
    obtain ⟨noCandidates, noLockouts, noTail⟩ := empty (by rw [bypass]; decide)
    refine ⟨fun _ => ⟨noCandidates, noLockouts, noTail⟩, ?_, ?_, ?_, ?_⟩
    · simp [noCandidates]
    · simp [noCandidates]
    · simp [noLockouts]
    · simp [noLockouts]

theorem Preserves.modeMatchToBypass (settled : GrantConsistent s → Settled s) (matching : (s.chan ch).mode = .matching) :
    Preserves s (s.modeMatchToBypass ch) := by
  have receivers {d : Chan} (mode : d.mode = .bypass) := receiversConsistent_mode (s := s) (ch := ch) (d := d) fun x h => by
    rw [matching] at h
    rw [mode]
    simpa [Serial.Sound] using h
  have left (f : Chan) (mode : f.mode = .bypass) (idle : f.ready = none) (queue : f.symbols.Sublist (s.chan ch).symbols)
      (room : (s.chan ch).Fits → f.queue.length ≤ 32) (fifo : f.fifo = (s.chan ch).fifo)
      (overrun : f.overrunPending = (s.chan ch).overrunPending) (counter : f.arrivalCounter = (s.chan ch).arrivalCounter)
      (limit : f.holdLimit = (s.chan ch).holdLimit) (noCandidates : f.candidates = []) (noLockouts : f.lockouts = [])
      (noTail : f.tail = none) : Preserves s (s.setChan ch f) := by
    refine Preserves.changeChan (serial := s.serial) (g := s.grant) (receivers mode)
      (fun h => grantConsistent_setChan (settled h) h idle) ?_ ?_ ?_ ?_
    · exact fun h => ⟨fifo ▸ h.1, room h, noCandidates ▸ Nat.zero_le _⟩
    · exact fun h => h.sublist queue (fifo ▸ .refl _) counter fun pending => fifo ▸ h.2.2.2.2.2 (overrun ▸ pending)
    · refine fun _ => ⟨fun _ => ⟨noCandidates, noLockouts, noTail⟩, ?_, ?_, ?_, ?_⟩
      · simp [noCandidates]
      · simp [noCandidates]
      · simp [noLockouts]
      · simp [noLockouts]
    · rintro ⟨low, high, _⟩
      rw [Chan.HoldsWithin, limit, noCandidates]
      exact ⟨low, high, by simp [heldUnder]⟩
  cases ready : (s.chan ch).ready with
  | none =>
    rw [modeMatchToBypass_none ready]
    exact left _ rfl rfl ((List.Sublist.refl _).append (List.nil_sublist _)) (fun h => h.2.1) rfl rfl rfl rfl rfl rfl rfl
  | some x =>
    rw [modeMatchToBypass_some ready]
    obtain ⟨f, delivered, same⟩ := storeSymbol_delivered (s.modChan ch fun c =>
      { c with mode := .bypass, ready := none, candidates := [], lockouts := [], tail := none }) ch x
    rw [chan_modChan_same] at delivered
    rw [State.modChan, setChan_setChan] at same
    refine (left f delivered.mode delivered.ready ?_ ?_ delivered.fifo delivered.overrunPending delivered.arrivalCounter
      delivered.holdLimit (List.sublist_nil.mp delivered.candidates) delivered.lockouts (delivered.tail rfl)).trans
      same.preserves
    · have idle : f.ready.toList = [] := by rw [delivered.ready]; rfl
      rw [Chan.symbols, Chan.symbols, idle, ready, List.append_nil]
      rcases delivered.queue with same | ⟨_, appended⟩
      · exact same ▸ List.sublist_append_left ..
      · exact appended ▸ List.Sublist.refl _
    · rintro ⟨_, queue, _⟩
      rcases delivered.queue with same | ⟨room, appended⟩
      · exact same ▸ queue
      · rw [appended, List.length_append, List.length_singleton]
        exact room

theorem Preserves.changeMode (settled : GrantConsistent s → Settled s) (m : Mode) : Preserves s (s.changeMode ch m) := by
  unfold State.changeMode
  split
  next => exact Preserves.refl s
  next _ _ off => exact Preserves.modeLeaveOff settled off (by decide)
  next _ _ off => exact Preserves.modeLeaveOff settled off (by decide)
  next => exact Preserves.modeOff settled
  next => exact Preserves.refl s
  next _ _ bypass => exact Preserves.modeBypassToMatch settled bypass
  next => exact Preserves.modeOff settled
  next _ _ matching => exact Preserves.modeMatchToBypass settled matching
  next => exact Preserves.refl s

theorem Preserves.writeMode (settled : GrantConsistent s → Settled s) (v : Byte) : Preserves s (s.writeMode ch v) := by
  unfold State.writeMode
  split
  · exact Preserves.changeMode settled _
  · exact Preserves.refl s

/-! ## The hold limit (R104–R106) -/

/-- A limit written is enforced at once: a change of the channel that only takes candidates away. -/
theorem Preserves.writeHoldLimit (s : State) (ch : Channel) (v : Byte) : Preserves s (s.writeHoldLimit ch v) := by
  refine Preserves.ite (fun ⟨low, high⟩ => ?_) fun _ => Preserves.refl s
  obtain ⟨gone, cs, ⟨fewer, _, _, within, _⟩, enforced⟩ := enforceHold_enforces
    (s.modChan ch fun c => { c with holdLimit := v.toNat }) ch s.timeBase (s.chan ch).candidates.length (by
      rw [chan_modChan_same]
      exact List.length_filter_le _ _)
  rw [chan_modChan_same] at fewer within
  rw [enforced, modChan_modChan]
  refine Preserves.trans ?_ (Same.offerHoldCancels _ ch gone s.timeBase).preserves
  refine Preserves.setChan rfl rfl ?_ ?_ ?_ ?_
  · exact fun ⟨fifo, queue, candidates⟩ => ⟨fifo, queue, fewer.length_le.trans candidates⟩
  · exact fun ⟨arrivals, below, stamps, stamped, entries, overrun⟩ =>
      ⟨arrivals, below, stamps, stamped, entries, overrun⟩
  · rintro ⟨empty, allowed, order, nodup, lockouts⟩
    refine ⟨fun off => ?_, fun b hb => allowed b (fewer.subset hb), order.sublist fewer, nodup, lockouts⟩
    obtain ⟨noCandidates, noLockouts, noTail⟩ := empty off
    exact ⟨List.sublist_nil.mp (noCandidates ▸ fewer), noLockouts, noTail⟩
  · exact fun _ => ⟨low, high, within⟩

end Sys2Proof.Machine

/-! The pattern slots and the element pool: what a change of one slot leaves consistent, the search of a compaction and
its moves (R23, R26, R39, R154, R167). -/

namespace Sys2Proof.Machine

variable {s : State} {n : PatternNum}

/-! ## The pool (R26, R38, R39) -/

theorem poolConsistent_of_records {t : State}
    (records : ∀ m r, (t.slot m).record? = some r → (s.slot m).record? = some r) (h : PoolConsistent s) :
    PoolConsistent t :=
  ⟨fun m r stored => h.1 m r (records m r stored),
    fun m k r q other hr hq => h.2 m k r q other (records m r hr) (records k q hq)⟩

/-- One slot takes a run that lies in the pool and meets no other. -/
theorem poolConsistent_setSlot {sl : Slot}
    (fits : ∀ r, sl.record? = some r → r.pattern.valid = true ∧ r.start + r.pattern.length ≤ 512
      ∧ ∀ m, m ≠ n → ∀ q, (s.slot m).record? = some q →
        r.start + r.pattern.length ≤ q.start ∨ q.start + q.pattern.length ≤ r.start)
    (h : PoolConsistent s) : PoolConsistent (s.setSlot n sl) := by
  refine ⟨fun m r stored => ?_, fun m k r q different stored other => ?_⟩
  · rw [slot_setSlot] at stored
    split at stored
    next => exact ⟨(fits r stored).1, (fits r stored).2.1⟩
    next => exact h.1 m r stored
  · rw [slot_setSlot] at stored other
    split at stored
    next here =>
      rw [if_neg (fun h => different (here.trans h.symm))] at other
      exact (fits r stored).2.2 k (fun h => different (here.trans h.symm)) q other
    next there =>
      split at other
      next here => exact ((fits q other).2.2 m there r stored).symm
      next => exact h.2 m k r q different stored other

theorem valid_length {p : Pattern} (h : p.valid = true) : 1 ≤ p.length := by
  simp only [Pattern.valid, Bool.and_eq_true, decide_eq_true_eq] at h
  exact h.1.1.1.1

theorem poolConsistent_length (h : PoolConsistent s) {m : PatternNum} {r : Stored}
    (stored : (s.slot m).record? = some r) : 1 ≤ r.pattern.length :=
  valid_length (h.1 m r stored).1

/-- R40: a run at the first fit meets no run of another slot. -/
theorem firstFit_fits {len a : Nat} (fit : s.firstFit n len = some a) :
    a + len ≤ 512 ∧ ∀ m, m ≠ n → ∀ q, (s.slot m).record? = some q → 1 ≤ q.pattern.length → 1 ≤ len →
      a + len ≤ q.start ∨ q.start + q.pattern.length ≤ a := by
  have found := List.find?_some fit
  simp only [Config.poolSize, Bool.and_eq_true, decide_eq_true_eq, List.all_eq_true, List.mem_range,
    Bool.not_eq_true', ← Bool.not_eq_true, allocatedBut_iff] at found
  obtain ⟨inPool, free⟩ := found
  refine ⟨inPool, fun m other q stored long long' => ?_⟩
  by_contra meets
  push Not at meets
  obtain ⟨below, above⟩ := meets
  by_cases first : a ≤ q.start
  · exact free (q.start - a) (by omega) ⟨m, other, q, stored, by omega, by omega⟩
  · exact free 0 (by omega) ⟨m, other, q, stored, by omega, by omega⟩

/-! ## The search of a move (R164, R167) -/

/-- What is found among the slots of a list: a run out of place with the lowest start. -/
theorem lowestDisplaced_some {slots : List PatternNum} {a : Nat} (found : s.lowestDisplaced slots = some (n, a)) :
    s.displacedStart? n = some a ∧ ∀ m ∈ slots, ∀ b, s.displacedStart? m = some b → a ≤ b := by
  induction slots generalizing n a with
  | nil => cases found
  | cons k slots ih =>
    unfold State.lowestDisplaced at found
    cases here : s.displacedStart? k with
    | none =>
      rw [here] at found
      obtain ⟨isStart, least⟩ := ih (by simpa using found)
      refine ⟨isStart, fun m hm b hb => ?_⟩
      rcases List.mem_cons.mp hm with rfl | later
      · rw [here] at hb
        cases hb
      · exact least m later b hb
    | some c =>
      cases later : s.lowestDisplaced slots with
      | none =>
        rw [here, later] at found
        cases found
        refine ⟨here, fun m hm b hb => ?_⟩
        rcases List.mem_cons.mp hm with rfl | inRest
        · rw [here] at hb
          cases hb
          exact le_rfl
        · have := lowestDisplaced_isSome (s := s) inRest hb
          rw [later] at this
          cases this
      | some best =>
        obtain ⟨j, d⟩ := best
        obtain ⟨isStart, least⟩ := ih later
        rw [here, later] at found
        dsimp only at found
        split at found
        next low =>
          cases found
          refine ⟨here, fun m hm b hb => ?_⟩
          rcases List.mem_cons.mp hm with rfl | inRest
          · rw [here] at hb
            cases hb
            exact le_rfl
          · exact low.trans (least m inRest b hb)
        next high =>
          cases found
          refine ⟨isStart, fun m hm b hb => ?_⟩
          rcases List.mem_cons.mp hm with rfl | inRest
          · rw [here] at hb
            cases hb
            omega
          · exact least m inRest b hb
where
  lowestDisplaced_isSome {s : State} {slots : List PatternNum} {m : PatternNum} {b : Nat} (isIn : m ∈ slots)
      (isStart : s.displacedStart? m = some b) : (s.lowestDisplaced slots).isSome := by
    induction slots with
    | nil => cases isIn
    | cons k slots ih =>
      unfold State.lowestDisplaced
      rcases List.mem_cons.mp isIn with rfl | later
      · rw [isStart]
        split <;> first | rfl | (split <;> rfl) | simp_all
      · have := ih later
        split <;> first | assumption | rfl | (split <;> rfl)

/-- R167: the run that a move takes. -/
theorem nextMove?_some (next : s.nextMove? = some n) :
    ∃ r, (s.slot n).record? = some r ∧ s.firstFree < r.start
      ∧ ∀ m q, (s.slot m).record? = some q → s.firstFree < q.start → r.start ≤ q.start := by
  obtain ⟨⟨k, a⟩, found, rfl⟩ := Option.map_eq_some_iff.mp next
  obtain ⟨isStart, least⟩ := lowestDisplaced_some found
  obtain ⟨r, stored, displaced, rfl⟩ := displacedStart?_eq_some.mp isStart
  exact ⟨r, stored, displaced, fun m q other high =>
    least m (mem_allPatterns m) q.start (displacedStart?_eq_some.mpr ⟨q, other, high, rfl⟩)⟩

/-- R167: the place that a move fills lies beside the run of every other slot. -/
theorem move_beside (pool : PoolConsistent s) {r : Stored} (stored : (s.slot n).record? = some r)
    (displaced : s.firstFree < r.start)
    (lowest : ∀ m q, (s.slot m).record? = some q → s.firstFree < q.start → r.start ≤ q.start) {m : PatternNum}
    (other : m ≠ n) {q : Stored} (hq : (s.slot m).record? = some q) :
    q.start + q.pattern.length ≤ s.firstFree ∨ r.start + r.pattern.length ≤ q.start := by
  have long := poolConsistent_length pool hq
  have longer := poolConsistent_length pool stored
  have inPool := (pool.1 n r stored).2
  by_cases high : s.firstFree < q.start
  · have above := lowest m q hq high
    rcases pool.2 n m r q (Ne.symm other) stored hq with before | after
    · exact .inr before
    · omega
  · refine .inl ?_
    by_contra covers
    have free := allocated_firstFree (s := s) (by omega)
    rw [← Bool.not_eq_true, allocated_iff] at free
    exact free ⟨m, q, hq, by omega, by omega⟩

/-! ## A slot changed -/

/-- An ARMED pattern that a slot change leaves ARMED with the same fields, or that nothing uses. -/
def KeepsUsers (s : State) (n : PatternNum) (sl : Slot) : Prop :=
  ∀ r, s.slot n = .armed r → (∃ q, sl = .armed q ∧ q.pattern = r.pattern)
    ∨ ∀ ch, (∀ b ∈ (s.chan ch).candidates, b.pattern ≠ n) ∧ ∀ l ∈ (s.chan ch).lockouts, l.pattern ≠ n

theorem heldUnder_congr_on {t : State} {queue : List Symbol} {cs : List Candidate}
    (same : ∀ c ∈ cs, t.swallowing c = s.swallowing c) : heldUnder t queue cs = heldUnder s queue cs := by
  unfold heldUnder
  refine List.filter_congr fun x _ => ?_
  rw [Bool.eq_iff_iff, List.any_eq_true, List.any_eq_true]
  exact ⟨fun ⟨c, hc, h⟩ => ⟨c, hc, same c hc ▸ h⟩, fun ⟨c, hc, h⟩ => ⟨c, hc, (same c hc).symm ▸ h⟩⟩

theorem swallowing_armed {t : State} {c : Candidate} {r : Stored} (armed : t.slot c.pattern = .armed r) :
    t.swallowing c = r.pattern.swallow :=
  swallows_eq (by rw [armed]; rfl)

theorem Preserves.setSlot {sl : Slot} {elements : Vector Element 512}
    (pool : PoolConsistent s → PoolConsistent (s.setSlot n sl)) (users : KeepsUsers s n sl) :
    Preserves s { s.setSlot n sl with pool := elements } where
  pending := rfl
  inReset := rfl
  capacity := id
  pool := pool
  receivers := id
  lines := id
  outputs := id
  grants := id
  arrivals := id
  contexts all := by
    have slot (m : PatternNum) : State.slot { s.setSlot n sl with pool := elements } m = if m = n then sl else s.slot m :=
      slot_setSlot s n m sl
    have stays {m : PatternNum} {r : Stored} (armed : s.slot m = .armed r)
        (used : ¬∀ ch, (∀ b ∈ (s.chan ch).candidates, b.pattern ≠ m) ∧ ∀ l ∈ (s.chan ch).lockouts, l.pattern ≠ m) :
        ∃ q, State.slot { s.setSlot n sl with pool := elements } m = .armed q ∧ q.pattern = r.pattern := by
      rw [slot]
      split
      next here =>
        subst here
        exact (users r armed).resolve_right used
      next => exact ⟨r, armed, rfl⟩
    have candidate {ch : Channel} {b : Candidate} (hb : b ∈ (s.chan ch).candidates) {r : Stored}
        (armed : s.slot b.pattern = .armed r) :
        ∃ q, State.slot { s.setSlot n sl with pool := elements } b.pattern = .armed q ∧ q.pattern = r.pattern :=
      stays armed fun unused => (unused ch).1 b hb rfl
    refine ⟨contextsConsistent_iff.mpr fun ch => ?_, heldWithinLimit_iff.mpr fun ch => ?_⟩
    · obtain ⟨empty, allowed, order, nodup, lockouts⟩ := contextsConsistent_iff.mp all.contexts ch
      refine ⟨empty, fun b hb => ?_, order, nodup, fun l hl => ?_⟩
      · obtain ⟨⟨r, armed, listed, position, inside, deadline⟩, rest⟩ := allowed b hb
        obtain ⟨q, armed', same⟩ := candidate hb armed
        exact ⟨⟨q, armed', same ▸ listed, position, same ▸ inside, same ▸ deadline⟩, rest⟩
      · obtain ⟨r, armed, listed, lockout⟩ := lockouts l hl
        obtain ⟨q, armed', same⟩ := stays armed fun unused => (unused ch).2 l hl rfl
        exact ⟨q, armed', same ▸ listed, same ▸ lockout⟩
    · obtain ⟨low, high, within⟩ := heldWithinLimit_iff.mp all.held ch
      refine ⟨low, high, ?_⟩
      rw [show State.chan { s.setSlot n sl with pool := elements } ch = s.chan ch from rfl,
        heldUnder_congr_on (s := s) fun c hc => ?_]
      · exact within
      · obtain ⟨_, allowed, _⟩ := contextsConsistent_iff.mp all.contexts ch
        obtain ⟨⟨r, armed, _⟩, _⟩ := allowed c hc
        obtain ⟨q, armed', same⟩ := candidate hc armed
        rw [swallowing_armed armed, swallowing_armed armed', same]

/-! ## Slot commands (R154, R156, R157, R159, R167) -/

theorem Preserves.arm {r : Stored} (disarmed : s.slot n = .disarmed r) : Preserves s (s.setSlot n (.armed r)) := by
  refine Preserves.setSlot (elements := s.pool) (poolConsistent_of_records fun m q stored => ?_) fun q armed => ?_
  · rw [slot_setSlot] at stored
    split at stored
    next here => rw [here, disarmed]; exact stored
    next => exact stored
  · rw [disarmed] at armed
    cases armed

theorem Preserves.free {r : Stored} (disarmed : s.slot n = .disarmed r) : Preserves s (s.setSlot n .free) := by
  refine Preserves.setSlot (elements := s.pool) (poolConsistent_of_records fun m q stored => ?_) fun q armed => ?_
  · rw [slot_setSlot] at stored
    split at stored
    next => cases stored
    next => exact stored
  · rw [disarmed] at armed
    cases armed

theorem Preserves.define {p : Pattern} {a : Nat} {es : List Element} (idle : (s.slot n).armed? = none)
    (valid : p.valid = true) (fit : s.firstFit n p.length = some a) :
    Preserves s (s.placeRun n (.disarmed ⟨p, a⟩) a es) := by
  refine Preserves.setSlot (fun h => poolConsistent_setSlot (fun r stored => ?_) h) fun q armed => ?_
  · cases stored
    obtain ⟨inPool, beside⟩ := firstFit_fits fit
    exact ⟨valid, inPool, fun m other q stored =>
      beside m other q stored (poolConsistent_length h stored) (valid_length valid)⟩
  · rw [armed] at idle
    cases idle

theorem moveTo_record? {f : Nat} {sl : Slot} {r : Stored} (stored : sl.record? = some r) :
    (sl.moveTo f).record? = some { r with start := f } := by
  cases sl <;> cases stored <;> rfl

theorem moveRun_eq {r : Stored} (stored : (s.slot n).record? = some r) :
    s.moveRun n = s.placeRun n ((s.slot n).moveTo s.firstFree) s.firstFree (s.runElements r) := by
  simp only [State.moveRun, stored]

theorem Preserves.moveRun (next : s.nextMove? = some n) : Preserves s (s.moveRun n) := by
  obtain ⟨r, stored, displaced, lowest⟩ := nextMove?_some next
  rw [moveRun_eq stored]
  refine Preserves.setSlot (fun h => poolConsistent_setSlot (fun q moved => ?_) h) fun q armed => ?_
  · rw [moveTo_record? stored] at moved
    cases moved
    obtain ⟨valid, inPool⟩ := h.1 n r stored
    refine ⟨valid, by dsimp only; omega, fun m other q hq => ?_⟩
    have := move_beside h stored displaced lowest other hq
    dsimp only
    omega
  · rw [armed]
    exact .inl ⟨_, rfl, rfl⟩

/-- R23: a pattern leaves ARMED with everything that uses it. -/
theorem Preserves.leaveArmed (s : State) (n : PatternNum) : Preserves s (s.leaveArmed n) := by
  have commutes : s.leaveArmed n = State.setSlot ((s.cancelPattern n).removeLockouts n) n (s.slot n).disarm := rfl
  rw [commutes]
  have cancelled : Preserves s (s.cancelPattern n) := Preserves.forEach _ fun t ch _ => Preserves.keepCandidates t ch _
  refine (cancelled.trans (Preserves.removeLockouts _ n)).trans ?_
  have chan (ch : Channel) : ((s.cancelPattern n).removeLockouts n).chan ch =
      { s.chan ch with
        candidates := (s.chan ch).candidates.filter fun c => c.pattern ≠ n
        lockouts := (s.chan ch).lockouts.filter fun l => l.pattern ≠ n } := by
    have same : ((s.cancelPattern n).removeLockouts n).chan ch = (s.leaveArmed n).chan ch := rfl
    rw [same, leaveArmed_eq, chan_mk_ofFn]
  have slot (m : PatternNum) : ((s.cancelPattern n).removeLockouts n).slot m = s.slot m := by
    rw [slot_removeLockouts, slot_cancelPattern]
  generalize (s.cancelPattern n).removeLockouts n = t at chan slot
  refine Preserves.setSlot (elements := t.pool) (poolConsistent_of_records fun m q stored => ?_)
    fun q armed => .inr fun ch => ?_
  · rw [slot_setSlot] at stored
    rw [slot]
    split at stored
    next here =>
      subst here
      cases sl : s.slot m <;> rw [sl] at stored <;> exact stored
    next => exact slot m ▸ stored
  · rw [chan]
    exact ⟨fun b hb => by simpa using (List.mem_filter.mp hb).2, fun l hl => by simpa using (List.mem_filter.mp hl).2⟩

end Sys2Proof.Machine

/-! The table commands and the steps of a compaction keep the invariants (chapters 8 and 9). -/

namespace Sys2Proof.Machine

variable {s : State}

/-! ## Table commands (R151–R162) -/

/-- What the taking of a command does besides its effect (R151). -/
theorem Preserves.finishCommand (s : State) (code : Byte) (r : Result) : Preserves s (s.finishCommand code r) :=
  (Preserves.hold s .table .table none s.compacting).trans
    (Same.preserves ⟨rfl, rfl, rfl, rfl, rfl, rfl, rfl, rfl, rfl, rfl, rfl, id⟩)

theorem Preserves.takeCommand (code : Byte) {work : State → Taken}
    (effect : s.grant = .decided .table → Preserves s (work s).2) : Preserves s (s.takeCommand code work) := by
  unfold State.takeCommand
  split
  next granted =>
    exact (effect ((commandGranted_iff s code).mp granted).1).trans (Preserves.finishCommand _ _ _)
  next => exact Preserves.refl s

theorem Preserves.unlessCompacting {work : Taken} (effect : Preserves s work.2) : Preserves s (unlessCompacting s work).2 := by
  unfold Sys2Proof.Machine.unlessCompacting
  split
  · exact Preserves.refl s
  · exact effect

theorem Preserves.withSlot {work : PatternNum → Taken} (effect : ∀ n, Preserves s (work n).2) :
    Preserves s (withSlot s work).2 := by
  unfold Sys2Proof.Machine.withSlot
  split
  · exact effect _
  · exact Preserves.refl s

theorem stagedPattern?_valid {r : Vector Byte 58} {p : Pattern} {es : List Element}
    (staged : stagedPattern? r = some (p, es)) : p.valid = true := by
  unfold stagedPattern? at staged
  split at staged
  · cases staged
  · split at staged
    next valid =>
      split at staged
      · split at staged
        · cases staged
          exact valid
        · cases staged
      · cases staged
    · cases staged

theorem Preserves.defineSlot {n : PatternNum} (idle : (s.slot n).armed? = none) : Preserves s (s.defineSlot n).2 := by
  unfold State.defineSlot
  split
  · exact Preserves.refl s
  next p es staged =>
    split
    · exact Preserves.refl s
    next a fit => exact Preserves.define idle (stagedPattern?_valid staged) fit

theorem Preserves.defineWork (s : State) (n : PatternNum) : Preserves s (s.defineWork n).2 := by
  unfold State.defineWork
  split
  next => exact Preserves.refl s
  next free => exact Preserves.defineSlot (by rw [free]; rfl)
  next disarmed => exact Preserves.defineSlot (by rw [disarmed]; rfl)

theorem Preserves.armWork (s : State) (n : PatternNum) : Preserves s (s.armWork n).2 := by
  unfold State.armWork
  split
  next => exact Preserves.refl s
  next disarmed => exact Preserves.arm disarmed
  next => exact Preserves.refl s

theorem Preserves.disarmWork (s : State) (n : PatternNum) : Preserves s (s.disarmWork n).2 := by
  unfold State.disarmWork
  split
  next => exact Preserves.refl s
  next => exact Preserves.refl s
  next => exact Preserves.leaveArmed s n

theorem Preserves.deleteWork (s : State) (n : PatternNum) : Preserves s (s.deleteWork n).2 := by
  unfold State.deleteWork
  split
  next => exact Preserves.refl s
  next disarmed => exact Preserves.free disarmed
  next => exact Preserves.refl s

theorem Preserves.readBackWork (s : State) (n : PatternNum) : Preserves s (s.readBackWork n).2 := by
  unfold State.readBackWork
  split
  · exact Preserves.refl s
  · exact Same.preserves ⟨rfl, rfl, rfl, rfl, rfl, rfl, rfl, rfl, rfl, rfl, rfl, id⟩

/-- R165: the compaction that COMPACT starts claims with the command that is still pending. -/
theorem Preserves.startCompaction (granted : s.grant = .decided .table) : Preserves s { s with compacting := true } :=
  Preserves.claims (g := s.grant) (a := s.lastGrant) (p := s.pendingCommand) fun ⟨placed, _, matchUnit, _⟩ =>
    ⟨placed, fun free => (by cases (granted.symm.trans free)), matchUnit, fun _ => Or.inr rfl⟩

section RuntimeReset

theorem runtimeReset_chan (s : State) (ch : Channel) : s.runtimeReset.chan ch = (s.chan ch).runtimeReset := by
  rw [runtimeReset_eq]
  simp [State.chan, State.refreshLines]

theorem runtimeReset_ser (s : State) (i : SerialChannel) :
    s.runtimeReset.ser i = { s.ser i with assembler := .clear } := by
  rw [runtimeReset_eq]
  simp [State.ser, State.refreshLines]

theorem runtimeReset_output (s : State) (o : OutputNum) :
    s.runtimeReset.output o = { s.output o with level := .low, deadline := none } := by
  rw [runtimeReset_eq]
  simp [State.output, State.refreshLines]

theorem runtimeReset_rest (s : State) :
    s.runtimeReset.eventQueue = [] ∧ s.runtimeReset.grant = s.grant ∧ s.runtimeReset.pendingCommand = s.pendingCommand
      ∧ s.runtimeReset.compacting = s.compacting ∧ s.runtimeReset.slots = s.slots
      ∧ s.runtimeReset.lines = s.lines := by
  rw [runtimeReset_eq]
  exact ⟨rfl, rfl, rfl, rfl, rfl, rfl⟩

/-- R162: with the moving state empty nothing waits, nothing is held and no claim but the command's stands. -/
theorem Preserves.runtimeReset (granted : s.grant = .decided .table) : Preserves s s.runtimeReset := by
  obtain ⟨events, grant, command, compacting, slots, lines⟩ := runtimeReset_rest s
  constructor
  case pending => rw [runtimeReset_eq]; rfl
  case inReset => rw [runtimeReset_eq]; rfl
  case pool =>
    refine poolConsistent_of_records fun m r stored => ?_
    rw [State.slot, slots] at stored
    exact stored
  case lines =>
    refine fun h => linesConsistent_iff.mpr fun n => ?_
    rw [State.line, lines]
    exact h n
  case capacity =>
    refine fun _ => withinCapacity_iff.mpr ⟨fun ch => ?_, by simp [events]⟩
    rw [runtimeReset_chan]
    exact ⟨Nat.zero_le _, Nat.zero_le _, Nat.zero_le _⟩
  case receivers =>
    refine fun h => receiversConsistent_iff.mpr fun i => ?_
    rw [runtimeReset_chan, runtimeReset_ser]
    exact (receiversConsistent_iff.mp h i).clear
  case outputs =>
    refine fun h => outputsConsistent_iff.mpr fun o => ?_
    rw [runtimeReset_output]
    exact (outputsConsistent_iff.mp h o).drive _
  case grants =>
    rintro ⟨_, _, _, table⟩
    rw [GrantConsistent, grant, TableWaits, command, compacting, granted]
    refine ⟨fun ch ready => ?_, nofun, nofun, fun _ => table granted⟩
    rw [runtimeReset_chan] at ready
    exact absurd rfl ready
  case arrivals =>
    refine fun _ => arrivalsOrdered_iff.mpr fun ch => ?_
    rw [runtimeReset_chan]
    exact ⟨List.Pairwise.nil, nofun, List.Pairwise.nil, nofun, nofun, nofun⟩
  case contexts =>
    refine fun all => ⟨contextsConsistent_iff.mpr fun ch => ?_, heldWithinLimit_iff.mpr fun ch => ?_⟩
    · rw [runtimeReset_chan]
      exact ⟨fun _ => ⟨rfl, rfl, rfl⟩, nofun, List.Pairwise.nil, List.nodup_nil, nofun⟩
    · obtain ⟨low, high, _⟩ := heldWithinLimit_iff.mp all.held ch
      rw [runtimeReset_chan]
      exact ⟨low, high, Nat.zero_le _⟩

end RuntimeReset

/-! ## Compaction (R166–R168) -/

/-- R168: the compaction ends under its grant. -/
theorem Preserves.endCompaction {a : Claimant} (held : s.grant = .held a) : Preserves s s.endCompaction := by
  refine Preserves.trans (t := { s with compacting := false }) ?_ (Preserves.offer _ _)
  refine Preserves.claims (g := s.grant) (a := s.lastGrant) (p := s.pendingCommand) fun ⟨placed, _⟩ =>
    ⟨placed, fun free => ?_, fun decided => ?_, fun decided => ?_⟩
  · cases held.symm.trans free
  · cases held.symm.trans decided
  · cases held.symm.trans decided

theorem Preserves.compactionMove {a : Claimant} (held : s.grant = .held a) {n : PatternNum} (next : s.nextMove? = some n) :
    Preserves s (s.compactionMove n) := by
  have moved := Preserves.moveRun next
  exact Preserves.ite (fun _ => moved.trans (Preserves.endCompaction ((moveRun_grant _ n).trans held))) fun _ => moved

/-- The grant that a step or a pass uses (R172). -/
theorem Preserves.useGrant (s : State) (c : Claimant) : Preserves s (s.useGrant c) :=
  Preserves.hold s c c s.pendingCommand s.compacting

theorem nextMove?_useGrant (s : State) (c : Claimant) : (s.useGrant c).nextMove? = s.nextMove? := rfl

end Sys2Proof.Machine

/-! What each phase of a pass makes of the candidates (R53–R60), for the invariants and for the statements on passes. -/

namespace Sys2Proof.Machine

variable {s : State} {ch : Channel} {x : Symbol}

/-! ## Phase 3: the fate of a candidate (R53–R57) -/

/-- R53: a pattern lets the symbol through. -/
def Pattern.transparent (p : Pattern) (x : Symbol) : Bool := p.pressOnly && x.release

section Fate

variable {c : Candidate} {r : Stored} (stored : (s.slot c.pattern).record? = some r)

include stored

theorem fate_eq : s.fate x c =
    if r.pattern.transparent x then .transparent
    else if elementMatches (s.elementAt (r.start + c.position)) x then
      if c.position + 1 = r.pattern.length then .completes else .advances
    else if r.pattern.lockout && decide (r.pattern.threshold.val ≤ c.position) then .locks
    else .dies := by
  simp only [State.fate, stored]
  rfl

theorem fate_transparent : s.fate x c = .transparent ↔ r.pattern.transparent x = true := by
  rw [fate_eq stored]
  split
  next h => simp [h]
  next h => split <;> split <;> simp_all

theorem fate_advances : s.fate x c = .advances ↔ r.pattern.transparent x = false
    ∧ elementMatches (s.elementAt (r.start + c.position)) x = true ∧ c.position + 1 ≠ r.pattern.length := by
  rw [fate_eq stored]
  split
  next h => simp [h]
  next h => split <;> split <;> simp_all

theorem fate_completes : s.fate x c = .completes ↔ r.pattern.transparent x = false
    ∧ elementMatches (s.elementAt (r.start + c.position)) x = true ∧ c.position + 1 = r.pattern.length := by
  rw [fate_eq stored]
  split
  next h => simp [h]
  next h => split <;> split <;> simp_all

theorem fate_locks : s.fate x c = .locks ↔ r.pattern.transparent x = false
    ∧ elementMatches (s.elementAt (r.start + c.position)) x = false
    ∧ r.pattern.lockout = true ∧ r.pattern.threshold.val ≤ c.position := by
  rw [fate_eq stored]
  split
  next h => simp [h]
  next h => split <;> split <;> simp_all

theorem advanced_eq : s.advanced x c = { c with position := c.position + 1, deadline := gapDeadline r.pattern x.stamp } := by
  simp only [State.advanced, stored]

end Fate

theorem fate_none {c : Candidate} (free : (s.slot c.pattern).record? = none) : s.fate x c = .dies := by
  simp only [State.fate, free]

theorem startsLockout_iff {n : PatternNum} :
    s.startsLockout ch x n = true ↔ ∃ c ∈ (s.chan ch).candidates, c.pattern = n ∧ s.fate x c = .locks := by
  simp [State.startsLockout]

/-- What survives phase 3: a candidate let through as it is, or one advanced. -/
theorem survivor?_some {c d : Candidate} (survives : s.survivor? ch x c = some d) :
    s.startsLockout ch x c.pattern = false
      ∧ (s.fate x c = .transparent ∧ d = c ∨ s.fate x c = .advances ∧ d = s.advanced x c) := by
  unfold State.survivor? at survives
  split at survives
  · cases survives
  next free =>
    refine ⟨by simpa using free, ?_⟩
    split at survives
    next fate =>
      cases survives
      exact .inl ⟨fate, rfl⟩
    next fate =>
      cases survives
      exact .inr ⟨fate, rfl⟩
    all_goals cases survives

theorem survivor?_same {c d : Candidate} (survives : s.survivor? ch x c = some d) :
    d.pattern = c.pattern ∧ d.birth = c.birth := by
  obtain ⟨_, ⟨_, rfl⟩ | ⟨_, rfl⟩⟩ := survivor?_some survives <;> exact ⟨rfl, rfl⟩

/-- The gap sets a deadline exactly when it is not 0 (R77). -/
theorem gapDeadline_isSome (p : Pattern) (t : Time) : gapDeadline p t ≠ none ↔ p.gap ≠ 0 := by
  unfold gapDeadline
  split
  next h => simp [h]
  next h => simpa using h

/-- A survivor stands where the candidate stood or one place on, inside its pattern. -/
theorem Chan.Allows.survives {c : Chan} {b d : Candidate} (allowed : c.Allows s ch b) (survives : s.survivor? ch x b = some d)
    {e : Chan} (counter : e.arrivalCounter = c.arrivalCounter) (ready : e.ready = c.ready)
    (free : ∀ l ∈ e.lockouts, l ∈ c.lockouts ∨ s.startsLockout ch x l.pattern = true) : e.Allows s ch d := by
  obtain ⟨⟨r, armed, listed, position, inside, deadline⟩, birth, waits, unlocked⟩ := allowed
  have stored : (s.slot b.pattern).record? = some r := by rw [armed]; rfl
  obtain ⟨pattern, born⟩ := survivor?_same survives
  obtain ⟨noLockout, kept⟩ := survivor?_some survives
  refine ⟨?_, counter ▸ born ▸ birth, fun y hy => born ▸ waits y (ready ▸ hy), fun l hl => ?_⟩
  · obtain ⟨_, rfl⟩ | ⟨advances, rfl⟩ := kept
    · exact ⟨r, armed, listed, position, inside, deadline⟩
    · obtain ⟨_, _, notLast⟩ := (fate_advances stored).mp advances
      rw [advanced_eq stored]
      refine ⟨r, armed, listed, Nat.le_succ_of_le position, ?_, gapDeadline_isSome _ _⟩
      dsimp only
      omega
  · rw [pattern]
    rcases free l hl with old | locks
    · exact unlocked l old
    · intro same
      rw [same, noLockout] at locks
      cases locks

/-- R53: candidates of one pattern are let through, or advanced, together. -/
theorem Candidate.Before.survive {a b c d : Candidate} (before : a.Before b) (hc : s.survivor? ch x a = some c)
    (hd : s.survivor? ch x b = some d) : c.Before d := by
  obtain ⟨order, distinct⟩ := before
  obtain ⟨ca, cb⟩ := survivor?_same hc
  obtain ⟨da, db⟩ := survivor?_same hd
  refine ⟨by rw [ca, cb, da, db]; exact order, fun ⟨pattern, position⟩ => distinct ⟨by rw [← ca, ← da]; exact pattern, ?_⟩⟩
  have same : a.pattern = b.pattern := by rw [← ca, ← da]; exact pattern
  cases stored : (s.slot a.pattern).record? with
  | none =>
    obtain ⟨_, ⟨fate, _⟩ | ⟨fate, _⟩⟩ := survivor?_some hc <;> rw [fate_none stored] at fate <;> cases fate
  | some r =>
    have stored' : (s.slot b.pattern).record? = some r := same ▸ stored
    obtain ⟨_, ⟨fa, rfl⟩ | ⟨fa, rfl⟩⟩ := survivor?_some hc <;> obtain ⟨_, ⟨fb, rfl⟩ | ⟨fb, rfl⟩⟩ := survivor?_some hd
    · exact position
    · have := (fate_transparent stored).mp fa
      rw [((fate_advances stored').mp fb).1] at this
      cases this
    · have := (fate_transparent stored').mp fb
      rw [((fate_advances stored).mp fa).1] at this
      cases this
    · exact Nat.succ.inj position

/-- The patterns that start a lockout in phase 3. -/
def State.locking (s : State) (ch : Channel) (x : Symbol) : List PatternNum := allPatterns.filter (s.startsLockout ch x)

theorem mem_locking {n : PatternNum} : n ∈ s.locking ch x ↔ s.startsLockout ch x n = true := by
  simp [State.locking, mem_allPatterns]

/-- The channel as phase 3 leaves it. -/
def State.afterCandidates (s : State) (ch : Channel) (x : Symbol) : Chan :=
  { s.chan ch with
    candidates := (s.chan ch).candidates.filterMap (s.survivor? ch x)
    lockouts := (s.chan ch).lockouts ++ (s.locking ch x).map (s.lockoutRecord x) }

theorem passCandidates_eq (s : State) (ch : Channel) (x : Symbol) : s.passCandidates ch x =
    forEach (s.locking ch x) (fun t n => t.offer (patternOffer .lockout ch n x.stamp))
      (s.setChan ch (s.afterCandidates ch x)) := rfl

theorem afterCandidates_sound (sound : (s.chan ch).Sound s ch) : (s.afterCandidates ch x).Sound s ch := by
  obtain ⟨empty, allowed, order, nodup, lockouts⟩ := sound
  refine ⟨fun off => ?_, fun d hd => ?_, ?_, ?_, fun l hl => ?_⟩
  · obtain ⟨noCandidates, noLockouts, noTail⟩ := empty off
    have noLocking : s.locking ch x = [] := by
      refine List.eq_nil_iff_forall_not_mem.mpr fun n isIn => ?_
      obtain ⟨c, hc, _⟩ := startsLockout_iff.mp (mem_locking.mp isIn)
      rw [noCandidates] at hc
      cases hc
    exact ⟨by simp [State.afterCandidates, noCandidates], by simp [State.afterCandidates, noLockouts, noLocking], noTail⟩
  · obtain ⟨b, hb, survives⟩ := List.mem_filterMap.mp hd
    refine (allowed b hb).survives survives rfl rfl fun l hl => ?_
    rcases List.mem_append.mp hl with old | new
    · exact .inl old
    · obtain ⟨n, hn, rfl⟩ := List.mem_map.mp new
      exact .inr (mem_locking.mp hn)
  · exact List.pairwise_filterMap.mpr (order.imp fun before _ hc _ hd =>
      Candidate.Before.survive (s := s) (ch := ch) (x := x) before hc hd)
  · have records : ((s.locking ch x).map (s.lockoutRecord x)).map (·.pattern) = s.locking ch x := by
      rw [List.map_map]
      exact List.map_id'' (fun _ => rfl) _
    unfold State.afterCandidates
    dsimp only
    rw [List.map_append, records, List.nodup_append]
    refine ⟨nodup, allPatterns_nodup.filter _, fun n old m new => ?_⟩
    obtain ⟨l, hl, rfl⟩ := List.mem_map.mp old
    obtain ⟨c, hc, rfl, _⟩ := startsLockout_iff.mp (mem_locking.mp new)
    exact (allowed c hc).2.2.2 l hl
  · rcases List.mem_append.mp hl with old | new
    · exact lockouts l old
    · obtain ⟨n, hn, rfl⟩ := List.mem_map.mp new
      obtain ⟨c, hc, rfl, locks⟩ := startsLockout_iff.mp (mem_locking.mp hn)
      obtain ⟨⟨r, armed, listed, _⟩, _⟩ := allowed c hc
      have stored : (s.slot c.pattern).record? = some r := by rw [armed]; rfl
      exact ⟨r, armed, listed, ((fate_locks stored).mp locks).2.2.1⟩

/-- A survivor holds what its candidate held. -/
theorem heldUnder_survivors (queue : List Symbol) (cs : List Candidate) :
    (heldUnder s queue (cs.filterMap (s.survivor? ch x))).length ≤ (heldUnder s queue cs).length := by
  refine List.Sublist.length_le (List.monotone_filter_right queue fun y held => ?_)
  obtain ⟨d, hd, holds⟩ := List.any_eq_true.mp held
  obtain ⟨c, hc, survives⟩ := List.mem_filterMap.mp hd
  obtain ⟨pattern, birth⟩ := survivor?_same survives
  refine List.any_eq_true.mpr ⟨c, hc, ?_⟩
  rw [State.swallowing, pattern, birth] at holds
  exact holds

theorem Preserves.passCandidates (s : State) (ch : Channel) (x : Symbol) : Preserves s (s.passCandidates ch x) := by
  rw [passCandidates_eq]
  refine Preserves.trans (t := s.setChan ch (s.afterCandidates ch x))
    (Preserves.setChan rfl rfl ?_ id afterCandidates_sound ?_)
    (Preserves.forEach _ fun t n _ => Preserves.offer t _)
  · exact fun ⟨fifo, queue, candidates⟩ => ⟨fifo, queue, (List.length_filterMap_le _ _).trans candidates⟩
  · exact fun ⟨low, high, within⟩ => ⟨low, high, (heldUnder_survivors _ _).trans within⟩

/-! ## Phase 4: spawning (R58–R60) -/

/-- R59: the candidate that a pattern spawns. -/
def State.spawned (s : State) (x : Symbol) (n : PatternNum) : Candidate :=
  { pattern := n, position := 1, birth := x.arrival
    deadline := match (s.slot n).record? with
      | some r => gapDeadline r.pattern x.stamp
      | none => none }

theorem eligible?_some {n : PatternNum} {r : Stored} : s.eligible? ch x n = some r ↔
    s.slot n = .armed r ∧ r.pattern.channels.getLsbD ch.val = true ∧ (∀ l ∈ (s.chan ch).lockouts, l.pattern ≠ n)
      ∧ r.pattern.transparent x = false ∧ elementMatches (s.elementAt r.start) x = true := by
  unfold State.eligible?
  cases slot : s.slot n with
  | free => simp [Slot.armed?]
  | disarmed q => simp [Slot.armed?]
  | armed q =>
    simp only [Slot.armed?, Option.ite_none_right_eq_some, Option.some.injEq, Slot.armed.injEq]
    have conditions : (q.pattern.channels.getLsbD ch.val && !((s.chan ch).lockouts.any fun l => l.pattern == n)
          && !(q.pattern.pressOnly && x.release) && elementMatches (s.elementAt q.start) x) = true ↔
        q.pattern.channels.getLsbD ch.val = true ∧ (∀ l ∈ (s.chan ch).lockouts, l.pattern ≠ n)
          ∧ q.pattern.transparent x = false ∧ elementMatches (s.elementAt q.start) x = true := by
      simp only [Bool.and_eq_true, Bool.not_eq_true', List.any_eq_false, beq_iff_eq, Pattern.transparent, and_assoc,
        ne_eq]
    rw [conditions]
    constructor
    · rintro ⟨h, rfl⟩
      exact ⟨rfl, h⟩
    · rintro ⟨rfl, h⟩
      exact ⟨h, rfl⟩

/-- A pattern that spawns a candidate on the symbol, if there is room: eligible and longer than 1. -/
def State.Spawns (s : State) (ch : Channel) (x : Symbol) (n : PatternNum) : Prop :=
  ∃ r, s.eligible? ch x n = some r ∧ r.pattern.length ≠ 1

/-- R59, R60: phase 4 over the patterns of a list puts the spawned candidates behind the others, in the list's order. -/
theorem foldl_spawnOne (patterns : List PatternNum) (w : Spawning) :
    ∃ ns : List PatternNum, ns.Sublist patterns ∧ (∀ n ∈ ns, s.Spawns ch x n)
      ∧ (patterns.foldl (s.spawnOne ch x) w).candidates = w.candidates ++ ns.map (s.spawned x)
      ∧ (w.candidates.length + ns.length ≤ 12 ∨ ns = []) := by
  induction patterns generalizing w with
  | nil => exact ⟨[], .refl _, nofun, (List.append_nil _).symm, .inr rfl⟩
  | cons n patterns ih =>
    rw [List.foldl_cons]
    have skip (same : (s.spawnOne ch x w n).candidates = w.candidates) :
        ∃ ns : List PatternNum, ns.Sublist (n :: patterns) ∧ (∀ n ∈ ns, s.Spawns ch x n)
          ∧ (patterns.foldl (s.spawnOne ch x) (s.spawnOne ch x w n)).candidates = w.candidates ++ ns.map (s.spawned x)
          ∧ (w.candidates.length + ns.length ≤ 12 ∨ ns = []) := by
      obtain ⟨ns, sub, spawns, eq, room⟩ := ih (s.spawnOne ch x w n)
      rw [same] at eq room
      exact ⟨ns, sub.cons n, spawns, eq, room⟩
    cases eligible : s.eligible? ch x n with
    | none => exact skip (by simp only [State.spawnOne, eligible])
    | some r =>
      by_cases one : r.pattern.length = 1
      · exact skip (by simp only [State.spawnOne, eligible, one, if_true])
      by_cases full : Config.candidateMax ≤ w.candidates.length
      · exact skip (by simp only [State.spawnOne, eligible, one, full, if_true, if_false])
      obtain ⟨armed, _⟩ := eligible?_some.mp eligible
      have added : (s.spawnOne ch x w n).candidates = w.candidates ++ [s.spawned x n] := by
        simp only [State.spawnOne, eligible, one, full, if_false, State.spawned, armed, Slot.record?]
      obtain ⟨ns, sub, spawns, eq, room⟩ := ih (s.spawnOne ch x w n)
      rw [added] at eq room
      have full : ¬12 ≤ w.candidates.length := full
      refine ⟨n :: ns, sub.cons_cons n, ?_, by simpa using eq, .inl ?_⟩
      · exact List.forall_mem_cons.mpr ⟨⟨r, eligible, one⟩, spawns⟩
      · rw [List.length_append, List.length_singleton] at room
        rw [List.length_cons]
        rcases room with room | rfl
        · omega
        · simp only [List.length_nil]
          omega

theorem spawnAll_candidates (s : State) (ch : Channel) (x : Symbol) :
    ∃ ns : List PatternNum, ns.Sublist allPatterns ∧ (∀ n ∈ ns, s.Spawns ch x n)
      ∧ (s.spawnAll ch x).candidates = (s.chan ch).candidates ++ ns.map (s.spawned x)
      ∧ ((s.chan ch).candidates.length + ns.length ≤ 12 ∨ ns = []) :=
  foldl_spawnOne allPatterns _

theorem allPatterns_sorted : allPatterns.Pairwise (· < ·) := List.pairwise_lt_finRange 64

/-- The symbol of a pass, taken from the ready slot, belongs behind the symbols of its channel. -/
structure InHand (s : State) (ch : Channel) (x : Symbol) : Prop where
  newer : ∀ y ∈ (s.chan ch).symbols, y.arrival < x.arrival ∧ y.stamp ≤ x.stamp
  older : ∀ e ∈ (s.chan ch).fifo, x.stamp ≤ e.stamp
  numbered : x.arrival < (s.chan ch).arrivalCounter
  past : x.stamp ≤ s.timeBase

theorem spawned_allows (pool : PoolConsistent s) {c : Chan} (hand : x.arrival < c.arrivalCounter) (idle : c.ready = none)
    (lockouts : c.lockouts = (s.chan ch).lockouts) {n : PatternNum} (spawns : s.Spawns ch x n) :
    c.Allows s ch (s.spawned x n) := by
  obtain ⟨r, eligible, notOne⟩ := spawns
  obtain ⟨armed, listed, free, _⟩ := eligible?_some.mp eligible
  have stored : (s.slot n).record? = some r := by rw [armed]; rfl
  have long := poolConsistent_length pool stored
  refine ⟨⟨r, armed, listed, le_rfl, ?_, ?_⟩, hand, fun y hy => ?_, lockouts ▸ free⟩
  · change 1 < r.pattern.length
    omega
  · simp only [State.spawned, stored]
    exact gapDeadline_isSome _ _
  · rw [idle] at hy
    cases hy

/-- A candidate born with the symbol of the pass holds nothing that arrived before. -/
theorem heldUnder_spawned {queue : List Symbol} (newer : ∀ y ∈ queue, y.arrival < x.arrival) (cs : List Candidate)
    (ns : List PatternNum) : heldUnder s queue (cs ++ ns.map (s.spawned x)) = heldUnder s queue cs := by
  refine List.filter_congr fun y hy => ?_
  have none : (ns.map (s.spawned x)).any (fun c => s.swallowing c && decide (c.birth ≤ y.arrival)) = false := by
    rw [List.any_eq_false]
    intro c hc
    obtain ⟨n, _, rfl⟩ := List.mem_map.mp hc
    have late : ¬(s.spawned x n).birth ≤ y.arrival := Nat.not_le.mpr (newer y hy)
    simp [late]
  rw [List.any_append, none, Bool.or_false]

theorem Preserves.passSpawning {s₀ : State} (before : Preserves s₀ s) (idle : (s.chan ch).ready = none)
    (hand : Invariants s₀ → InHand s ch x ∧ (∀ b ∈ (s.chan ch).candidates, b.birth < x.arrival)
      ∧ (∀ b ∈ (s.chan ch).candidates, b.position = 1 → ¬s.Spawns ch x b.pattern)
      ∧ (s.chan ch).mode = .matching) : Preserves s₀ (s.passSpawning ch x (s.spawnAll ch x)) := by
  obtain ⟨ns, sub, spawns, eq, room⟩ := spawnAll_candidates s ch x
  have spawned : Preserves s₀ (s.modChan ch fun c => { c with candidates := (s.spawnAll ch x).candidates }) := by
    rw [eq]
    refine before.thenSetChan rfl rfl ?_ (fun _ => id) ?_ ?_
    · rintro ⟨fifo, queue, candidates⟩
      refine ⟨fifo, queue, ?_⟩
      simp only [List.length_append, List.length_map]
      rcases room with room | rfl
      · exact room
      · exact candidates
    · rintro all ⟨_, allowed, order, nodup, lockouts⟩
      obtain ⟨inHand, births, fresh, matching⟩ := hand all
      have pool := before.pool all.pool
      refine ⟨fun off => absurd matching off, fun b hb => ?_, ?_, nodup, lockouts⟩
      · rcases List.mem_append.mp hb with old | new
        · exact allowed b old
        · obtain ⟨n, hn, rfl⟩ := List.mem_map.mp new
          exact spawned_allows pool inHand.numbered idle rfl (spawns n hn)
      · refine List.pairwise_append.mpr ⟨order, ?_, fun a ha b hb => ?_⟩
        · refine List.pairwise_map.mpr ((allPatterns_sorted.sublist sub).imp fun less => ?_)
          exact ⟨.inr ⟨rfl, less⟩, fun same => less.ne same.1⟩
        · obtain ⟨n, hn, rfl⟩ := List.mem_map.mp hb
          exact ⟨.inl (births a ha), fun ⟨pattern, position⟩ => fresh a ha position (pattern ▸ spawns n hn)⟩
    · rintro all ⟨low, high, within⟩
      obtain ⟨inHand, _⟩ := hand all
      refine ⟨low, high, ?_⟩
      rw [heldUnder_spawned fun y hy => (inHand.newer y (List.mem_append_left _ hy)).1]
      exact within
  unfold State.passSpawning
  split
  · exact spawned.trans (Preserves.offer _ _)
  · exact spawned

end Sys2Proof.Machine

/-! A pass keeps the invariants (chapter 3). -/

namespace Sys2Proof.Machine

variable {s t u : State} {ch : Channel} {x : Symbol}

/-! ## Phases 5 to 7 -/

theorem Preserves.offerMatch (s : State) (ch : Channel) (x : Symbol) (d : Completion) : Preserves s (s.offerMatch ch x d) := by
  unfold State.offerMatch
  split
  · exact Preserves.createEvent s _ _
  · exact Preserves.refl s

theorem Preserves.disarmOneShot (s : State) (d : Completion) : Preserves s (s.disarmOneShot d) := by
  unfold State.disarmOneShot
  split
  · exact Preserves.ite (fun _ => Preserves.leaveArmed s _) fun _ => Preserves.refl s
  · exact Preserves.refl s

theorem Preserves.clearCandidates (s : State) (ch : Channel) :
    Preserves s (s.modChan ch fun c => { c with candidates := [] }) :=
  Preserves.shrinkBy _
    ⟨rfl, rfl, rfl, rfl, rfl, rfl, List.nil_sublist _, List.Sublist.refl _, id, List.Sublist.refl _⟩

theorem Preserves.passCompletions (s : State) (ch : Channel) (x : Symbol) (done : List Completion) :
    Preserves s (s.passCompletions ch x done) := by
  have disarmed := ((Preserves.forEach (s := s) done fun t d _ => Preserves.offerMatch t ch x d).trans
    (Preserves.applyBatch _ (done.filterMap s.actionOf?))).trans
    (Preserves.forEach done fun t d _ => Preserves.disarmOneShot t d)
  exact Preserves.ite (fun _ => disarmed.trans (Preserves.clearCandidates _ ch)) fun _ => disarmed

/-- The symbol in hand is delivered behind the symbols of its channel (R90). -/
theorem Preserves.deliver (before : Preserves s t) (idle : (t.chan ch).ready = none)
    (hand : ArrivalsOrdered s → InHand t ch x) : Preserves s (t.deliver ch x) := by
  obtain ⟨d, delivered, same⟩ := deliver_delivered t ch x
  refine (before.thenSetChan delivered.mode delivered.ready ?_ ?_ ?_ fun _ => delivered.held).trans same.preserves
  · rintro ⟨fifo, queue, candidates⟩
    refine ⟨delivered.fifo.symm ▸ fifo, ?_, delivered.candidates.length_le.trans candidates⟩
    rcases delivered.queue with same | ⟨room, appended⟩
    · exact same.symm ▸ queue
    · rw [appended, List.length_append, List.length_singleton]
      exact room
  · intro h ordered
    obtain ⟨newer, older, numbered, past⟩ := hand h
    refine ordered.push newer (delivered.fifo.symm ▸ older) (delivered.fifo ▸ .refl _) (delivered.arrivalCounter.symm ▸ numbered)
      delivered.arrivalCounter.ge past ?_ fun pending => ?_
    · have ready : d.ready = none := delivered.ready.trans idle
      simp only [Chan.symbols, idle, ready, Option.toList_none, List.append_nil]
      rcases delivered.queue with same | ⟨_, appended⟩
      · exact same ▸ List.sublist_append_left ..
      · exact appended ▸ List.Sublist.refl _
    · rw [delivered.fifo]
      exact ordered.2.2.2.2.2 (delivered.overrunPending ▸ pending)
  · rintro _ ⟨empty, allowed, order, nodup, lockouts⟩
    refine ⟨fun off => ?_, fun b hb => ?_, order.sublist delivered.candidates, delivered.lockouts.symm ▸ nodup,
      delivered.lockouts.symm ▸ lockouts⟩
    · obtain ⟨noCandidates, noLockouts, noTail⟩ := empty (delivered.mode ▸ off)
      exact ⟨List.sublist_nil.mp (noCandidates ▸ delivered.candidates), delivered.lockouts.trans noLockouts,
        delivered.tail noTail⟩
    · obtain ⟨stored, birth, ready, free⟩ := allowed b (delivered.candidates.subset hb)
      exact ⟨stored, delivered.arrivalCounter.symm ▸ birth, delivered.ready.symm ▸ ready, delivered.lockouts.symm ▸ free⟩

/-- R97, R99: a swallowed symbol takes entries from the queue; in MATCH it may set the tail record. -/
theorem Preserves.swallow (matching : (s.chan ch).mode = .matching) (b : ArrivalNum) (tail : Nat) :
    Preserves s (s.swallow ch x b tail) := by
  refine Preserves.setChan rfl rfl ?_ ?_ ?_ ?_
  · exact fun ⟨fifo, queue, candidates⟩ => ⟨fifo, (List.length_filter_le _ _).trans queue, candidates⟩
  · exact fun h => h.sublist (List.filter_sublist.append (.refl _)) (.refl _) rfl h.2.2.2.2.2
  · exact fun ⟨_, allowed, order, nodup, lockouts⟩ =>
      ⟨fun off => absurd matching off, allowed, order, nodup, lockouts⟩
  · exact fun ⟨low, high, within⟩ => ⟨low, high, (heldUnder_mono s List.filter_sublist (.refl _)).trans within⟩

theorem Preserves.handOn (before : Preserves s t) (matching : (t.chan ch).mode = .matching) (idle : (t.chan ch).ready = none)
    (hand : ArrivalsOrdered s → InHand t ch x) (d : Disposition) : Preserves s (t.handOn ch x d) := by
  cases d with
  | swallowed b tail => exact before.trans (Preserves.swallow matching b tail)
  | held => exact before.deliver idle hand
  | free => exact before.deliver idle hand

/-! ## What stays of the channel until the symbol is handed on -/

/-- Going from `s` to `t` leaves the channel's mode, ready slot, FIFO, queue and counter, and the time base. -/
structure SameBuffers (ch : Channel) (s t : State) : Prop where
  mode : (t.chan ch).mode = (s.chan ch).mode
  ready : (t.chan ch).ready = (s.chan ch).ready
  fifo : (t.chan ch).fifo = (s.chan ch).fifo
  queue : (t.chan ch).queue = (s.chan ch).queue
  arrivalCounter : (t.chan ch).arrivalCounter = (s.chan ch).arrivalCounter
  timeBase : t.timeBase = s.timeBase

theorem SameBuffers.refl (ch : Channel) (s : State) : SameBuffers ch s s := ⟨rfl, rfl, rfl, rfl, rfl, rfl⟩

theorem SameBuffers.trans (h : SameBuffers ch s t) (k : SameBuffers ch t u) : SameBuffers ch s u :=
  ⟨k.mode.trans h.mode, k.ready.trans h.ready, k.fifo.trans h.fifo, k.queue.trans h.queue,
    k.arrivalCounter.trans h.arrivalCounter, k.timeBase.trans h.timeBase⟩

theorem SameBuffers.of_chan (chan : t.chan ch = s.chan ch) (time : t.timeBase = s.timeBase) : SameBuffers ch s t := by
  constructor <;> first | exact time | rw [chan]

theorem SameBuffers.forEach {α : Type} {f : State → α → State} (items : List α) (step : ∀ t a, SameBuffers ch t (f t a)) :
    SameBuffers ch s (Machine.forEach items f s) :=
  forEach_invariant (P := SameBuffers ch s) items (fun t a _ h => h.trans (step t a)) s (.refl ch s)

theorem SameBuffers.offer (s : State) (o : Offer) : SameBuffers ch s (s.offer o) :=
  .of_chan (chan_offer s o ch) (offer_timeBase s o)

theorem SameBuffers.setChan {d : Chan} (mode : d.mode = (s.chan ch).mode) (ready : d.ready = (s.chan ch).ready)
    (fifo : d.fifo = (s.chan ch).fifo) (queue : d.queue = (s.chan ch).queue)
    (counter : d.arrivalCounter = (s.chan ch).arrivalCounter) : SameBuffers ch s (s.setChan ch d) := by
  have here : (s.setChan ch d).chan ch = d := chan_setChan_same s ch d
  constructor <;> first | rfl | (rw [here]; assumption)

theorem SameBuffers.passExpiry (s : State) (t : Time) : SameBuffers ch s (s.passExpiry ch t) :=
  .setChan rfl rfl rfl rfl rfl

theorem SameBuffers.passCandidates (s : State) (x : Symbol) : SameBuffers ch s (s.passCandidates ch x) := by
  rw [passCandidates_eq]
  exact SameBuffers.trans (t := s.setChan ch (s.afterCandidates ch x)) (.setChan rfl rfl rfl rfl rfl)
    (SameBuffers.forEach _ fun t _ => SameBuffers.offer t _)

theorem SameBuffers.passSpawning (s : State) (x : Symbol) (w : Spawning) : SameBuffers ch s (s.passSpawning ch x w) := by
  unfold State.passSpawning
  have spawned : SameBuffers ch s (s.modChan ch fun c => { c with candidates := w.candidates }) := .setChan rfl rfl rfl rfl rfl
  split
  · exact spawned.trans (SameBuffers.offer _ _)
  · exact spawned

theorem SameBuffers.leaveArmed (s : State) (n : PatternNum) : SameBuffers ch s (s.leaveArmed n) := by
  have chan : (s.leaveArmed n).chan ch =
      { s.chan ch with
        candidates := (s.chan ch).candidates.filter fun c => c.pattern ≠ n
        lockouts := (s.chan ch).lockouts.filter fun l => l.pattern ≠ n } := by
    rw [leaveArmed_eq, chan_mk_ofFn]
  have time : (s.leaveArmed n).timeBase = s.timeBase := (leaveArmed_keeps s n).timeBase
  constructor <;> first | exact time | rw [chan]

theorem SameBuffers.disarmOneShot (s : State) (d : Completion) : SameBuffers ch s (s.disarmOneShot d) := by
  unfold State.disarmOneShot
  split
  · split
    · exact SameBuffers.leaveArmed s _
    · exact SameBuffers.refl ch s
  · exact SameBuffers.refl ch s

theorem SameBuffers.passCompletions (s : State) (x : Symbol) (done : List Completion) :
    SameBuffers ch s (s.passCompletions ch x done) := by
  have offered : SameBuffers ch s (Machine.forEach done (fun t d => t.offerMatch ch x d) s) :=
    .forEach _ fun t d => .of_chan (chan_offerMatch t ch x d ch) (offerMatch_keeps t ch x d).timeBase
  have acted := offered.trans (.of_chan (chan_applyBatch _ (done.filterMap s.actionOf?) ch) (applyBatch_keeps _ _).timeBase)
  have disarmed := acted.trans (SameBuffers.forEach done fun t d => SameBuffers.disarmOneShot t d)
  unfold State.passCompletions
  dsimp only
  split
  · exact disarmed.trans (.setChan rfl rfl rfl rfl rfl)
  · exact disarmed

theorem InHand.of_buffers (hand : InHand s ch x) (same : SameBuffers ch s t) : InHand t ch x := by
  obtain ⟨newer, older, numbered, past⟩ := hand
  exact ⟨by simpa only [Chan.symbols, same.queue, same.ready] using newer, same.fifo.symm ▸ older,
    same.arrivalCounter.symm ▸ numbered, same.timeBase.symm ▸ past⟩

/-! ## The pass -/

/-- A pass begins: the symbol is in hand and the match unit holds the memory (R49, R172). -/
theorem Preserves.beginPass (matching : (s.chan ch).mode = .matching) : Preserves s (s.beginPass ch) := by
  have taken : Preserves s
      { s.setChan ch { s.chan ch with ready := none } with serial := s.serial, grant := .held .matchUnit } := by
    refine Preserves.changeChan (receiversConsistent_setChan rfl) ?_ id ?_ ?_ id
    · rintro ⟨placed, _⟩
      refine ⟨fun j ready => ?_, nofun, nofun, nofun⟩
      have chan : State.chan { s.setChan ch { s.chan ch with ready := none } with grant := .held .matchUnit } j =
          (s.setChan ch { s.chan ch with ready := none }).chan j := rfl
      rw [chan, chan_setChan] at ready ⊢
      split
      · exact matching
      next other =>
        rw [if_neg other] at ready
        exact placed j ready
    · exact fun h => h.sublist ((List.Sublist.refl _).append (List.nil_sublist _)) (.refl _) rfl h.2.2.2.2.2
    · intro all
      obtain ⟨_, allowed, order, nodup, lockouts⟩ := contextsConsistent_iff.mp all.contexts ch
      refine ⟨fun off => absurd matching off, fun b hb => ?_, order, nodup, lockouts⟩
      obtain ⟨stored, birth, _, free⟩ := allowed b hb
      exact ⟨stored, birth, nofun, free⟩
  exact taken.trans (Same.preserves ⟨rfl, rfl, rfl, rfl, rfl, rfl, rfl, rfl, rfl, rfl, rfl, id⟩)

/-- R49: the symbol of the ready slot is the newest of its channel and older than the entries that wait. -/
theorem inHand_beginPass (ready : (s.chan ch).ready = some x) (arrivals : ArrivalsOrdered s) : InHand (s.beginPass ch) ch x := by
  have chan : (s.beginPass ch).chan ch = { s.chan ch with ready := none } := by
    unfold State.beginPass
    exact chan_modChan_same s ch fun c => { c with ready := none }
  obtain ⟨order, below, stamps, stamped, entries, _⟩ := arrivalsOrdered_iff.mp arrivals ch
  have symbols : (s.chan ch).symbols = (s.chan ch).queue ++ [x] := by rw [Chan.symbols, ready]; rfl
  have isLast : x ∈ (s.chan ch).symbols := by simp [symbols]
  have others : ((s.beginPass ch).chan ch).symbols = (s.chan ch).queue := by
    rw [chan]
    exact List.append_nil _
  refine ⟨fun y hy => ?_, fun e he => ?_, ?_, stamped x isLast⟩
  · rw [others] at hy
    constructor
    · rw [symbols, List.map_append, List.pairwise_append] at order
      exact order.2.2 _ (List.mem_map_of_mem hy) _ (by simp)
    · have inner := (List.pairwise_append.mp stamps).1
      rw [symbols, List.map_append, List.pairwise_append] at inner
      exact inner.2.2 _ (List.mem_map_of_mem hy) _ (by simp)
  · rw [chan] at he
    exact (List.pairwise_append.mp stamps).2.2 _ (List.mem_map_of_mem isLast) _ (List.mem_map_of_mem he)
  · rw [chan]
    exact below x isLast

theorem passCandidates_chan (s : State) (ch : Channel) (x : Symbol) :
    (s.passCandidates ch x).chan ch = s.afterCandidates ch x := by
  rw [passCandidates_eq]
  refine forEach_invariant (P := fun t => t.chan ch = s.afterCandidates ch x) _ (fun t n _ h => ?_) _ ?_
  · rw [chan_offer]
    exact h
  · exact chan_setChan_same s ch _

/-- After phase 3 a candidate at position 1 was let through, so its pattern spawns nothing on the symbol. -/
theorem passCandidates_fresh (sound : (s.chan ch).Sound s ch) :
    ∀ b ∈ ((s.passCandidates ch x).chan ch).candidates, b.position = 1 →
      ¬(s.passCandidates ch x).Spawns ch x b.pattern := by
  have slot (n : PatternNum) : (s.passCandidates ch x).slot n = s.slot n := slot_passCandidates s ch x n
  rintro d hd first ⟨r, eligible, _⟩
  obtain ⟨armed, _, _, opaque', _⟩ := eligible?_some.mp eligible
  rw [slot] at armed
  rw [passCandidates_chan] at hd
  obtain ⟨b, hb, survives⟩ := List.mem_filterMap.mp hd
  obtain ⟨pattern, _⟩ := survivor?_same survives
  have stored : (s.slot b.pattern).record? = some r := by rw [← pattern, armed]; rfl
  obtain ⟨_, ⟨fate, _⟩ | ⟨_, rfl⟩⟩ := survivor?_some survives
  · rw [(fate_transparent stored).mp fate] at opaque'
    cases opaque'
  · obtain ⟨⟨_, _, _, position, _⟩, _⟩ := sound.2.1 b hb
    rw [advanced_eq stored] at first
    have : b.position + 1 = 1 := first
    omega

theorem passCandidates_births (s : State) (ch : Channel) (x : Symbol) :
    ∀ d ∈ ((s.passCandidates ch x).chan ch).candidates, ∃ b ∈ (s.chan ch).candidates, d.birth = b.birth := by
  intro d hd
  rw [passCandidates_chan] at hd
  obtain ⟨b, hb, survives⟩ := List.mem_filterMap.mp hd
  exact ⟨b, hb, (survivor?_same survives).2⟩

theorem Preserves.runPass (matching : (s.chan ch).mode = .matching) (ready : (s.chan ch).ready = some x) :
    Preserves s ((s.beginPass ch).runPass ch x) := by
  have chan : (s.beginPass ch).chan ch = { s.chan ch with ready := none } := by
    unfold State.beginPass
    exact chan_modChan_same s ch fun c => { c with ready := none }
  have begun : Preserves s (s.beginPass ch) := Preserves.beginPass matching
  have expired : Preserves s ((s.beginPass ch).passExpiry ch x.stamp) := by
    refine begun.trans (Preserves.shrinkBy _ ⟨rfl, rfl, rfl, rfl, rfl, rfl, List.filter_sublist, List.filter_sublist,
      fun none => ?_, List.Sublist.refl _⟩)
    dsimp only
    rw [none]
    rfl
  have buffers := SameBuffers.passExpiry (ch := ch) (s.beginPass ch) x.stamp
  generalize hs2 : (s.beginPass ch).passExpiry ch x.stamp = s2 at expired buffers
  have fewer : (s2.chan ch).candidates ⊆ (s.chan ch).candidates := by
    rw [← hs2]
    unfold State.passExpiry
    rw [chan_modChan_same, chan]
    exact List.filter_sublist.subset
  have hand (h : ArrivalsOrdered s) : InHand s2 ch x := (inHand_beginPass ready h).of_buffers buffers
  have mode : (s2.chan ch).mode = .matching := buffers.mode.trans (by rw [chan]; exact matching)
  have idle : (s2.chan ch).ready = none := buffers.ready.trans (by rw [chan])
  unfold State.runPass
  rw [hs2]
  refine Preserves.ite (fun _ => ?_) fun _ => ?_
  · have kept : SameBuffers ch s2 (s2.keepCandidates ch fun _ => false) := .setChan rfl rfl rfl rfl rfl
    exact (expired.trans (Preserves.keepCandidates s2 ch _)).deliver (kept.ready.trans idle)
      fun h => (hand h).of_buffers kept
  · have tried := expired.trans (Preserves.passCandidates s2 ch x)
    have triedBuffers := SameBuffers.passCandidates (ch := ch) s2 x
    have spawned := tried.passSpawning (ch := ch) (x := x) (triedBuffers.ready.trans idle) fun all => by
      refine ⟨(hand all.arrivals).of_buffers triedBuffers, fun d hd => ?_,
        passCandidates_fresh (contextsConsistent_iff.mp (expired.invariants all).contexts ch), triedBuffers.mode.trans mode⟩
      obtain ⟨b, hb, birth⟩ := passCandidates_births s2 ch x d hd
      rw [birth]
      obtain ⟨_, allowed, _⟩ := contextsConsistent_iff.mp all.contexts ch
      exact (allowed b (fewer hb)).2.2.1 x ready
    have spawnedBuffers := triedBuffers.trans (SameBuffers.passSpawning _ x ((s2.passCandidates ch x).spawnAll ch x))
    have completed := spawned.trans (Preserves.passCompletions _ ch x
      (inPatternOrder (s2.advanceCompletions ch x ++ ((s2.passCandidates ch x).spawnAll ch x).completions)))
    have completedBuffers := spawnedBuffers.trans (SameBuffers.passCompletions _ x
      (inPatternOrder (s2.advanceCompletions ch x ++ ((s2.passCandidates ch x).spawnAll ch x).completions)))
    exact completed.handOn (completedBuffers.mode.trans mode) (completedBuffers.ready.trans idle)
      (fun h => (hand h).of_buffers completedBuffers) _

theorem Preserves.matchPass (s : State) : Preserves s s.matchPass := by
  refine Preserves.ite (fun _ => ?_) fun _ => Preserves.refl s
  split
  next ch next =>
    split
    next x ready => exact Preserves.runPass (nextReady?_ready next).1 ready
    next => exact Preserves.refl s
  next => exact Preserves.refl s

end Sys2Proof.Machine

/-! Every command keeps the invariants: the events of grants, the host's accesses and the rest. -/

namespace Sys2Proof.Machine

variable {s t : State}

/-! ## Updates that no invariant reads -/

theorem Preserves.quiet (pending : t.pending = s.pending) (inReset : t.inReset = s.inReset) (chans : t.chans = s.chans)
    (serial : t.serial = s.serial) (lines : t.lines = s.lines) (slots : t.slots = s.slots)
    (outputs : t.outputs = s.outputs) (grant : t.grant = s.grant) (command : t.pendingCommand = s.pendingCommand)
    (compacting : t.compacting = s.compacting) (timeBase : t.timeBase = s.timeBase)
    (events : t.eventQueue.length ≤ s.eventQueue.length) : Preserves s t :=
  Same.preserves ⟨pending, inReset, chans, serial, lines, slots, outputs, grant, command, compacting, timeBase,
    events.trans⟩

theorem Preserves.advanceConfig (s : State) : Preserves s s.advanceConfig :=
  .quiet rfl rfl rfl rfl rfl rfl rfl rfl rfl rfl rfl le_rfl

theorem Preserves.writeOperand (s : State) (v : Byte) : Preserves s (s.writeOperand v) :=
  Preserves.ite (fun _ => Preserves.refl s) fun _ => .quiet rfl rfl rfl rfl rfl rfl rfl rfl rfl rfl rfl le_rfl

theorem Preserves.writeStageAddr (s : State) (v : Byte) : Preserves s (s.writeStageAddr v) := by
  refine Preserves.ite (fun _ => Preserves.refl s) fun _ => ?_
  split
  · exact .quiet rfl rfl rfl rfl rfl rfl rfl rfl rfl rfl rfl le_rfl
  · exact Preserves.refl s

theorem Preserves.writeStageData (s : State) (v : Byte) : Preserves s (s.writeStageData v) :=
  Preserves.ite (fun _ => Preserves.refl s) fun _ => .quiet rfl rfl rfl rfl rfl rfl rfl rfl rfl rfl rfl le_rfl

theorem Preserves.readStageData (s : State) : Preserves s s.readStageData :=
  Preserves.ite (fun _ => Preserves.refl s) fun _ => .quiet rfl rfl rfl rfl rfl rfl rfl rfl rfl rfl rfl le_rfl

theorem Preserves.writeConfigAddr (s : State) (v : Byte) : Preserves s (s.writeConfigAddr v) := by
  unfold State.writeConfigAddr
  split
  · exact .quiet rfl rfl rfl rfl rfl rfl rfl rfl rfl rfl rfl le_rfl
  · exact Preserves.refl s

theorem Preserves.writeClassSel (s : State) (v : Byte) : Preserves s (s.writeClassSel v) := by
  unfold State.writeClassSel
  split
  · exact .quiet rfl rfl rfl rfl rfl rfl rfl rfl rfl rfl rfl le_rfl
  · exact Preserves.refl s

theorem Preserves.writeChanSel (s : State) (v : Byte) : Preserves s (s.writeChanSel v) := by
  unfold State.writeChanSel
  split
  · exact .quiet rfl rfl rfl rfl rfl rfl rfl rfl rfl rfl rfl le_rfl
  · exact Preserves.refl s

theorem Preserves.writeClassAddr (s : State) (v : Byte) : Preserves s (s.writeClassAddr v) :=
  .quiet rfl rfl rfl rfl rfl rfl rfl rfl rfl rfl rfl le_rfl

theorem Preserves.writeClassData (s : State) (v : Byte) : Preserves s (s.writeClassData v) := by
  unfold State.writeClassData
  split
  · exact (Preserves.setClass s _ _ _).trans (.quiet rfl rfl rfl rfl rfl rfl rfl rfl rfl rfl rfl le_rfl)
  · exact .quiet rfl rfl rfl rfl rfl rfl rfl rfl rfl rfl rfl le_rfl

/-- R130: the queue without its best event is no longer. -/
theorem Preserves.presentNext (s : State) : Preserves s s.presentNext :=
  .quiet rfl rfl rfl rfl rfl rfl rfl rfl rfl rfl rfl List.eraseP_sublist.length_le

theorem Preserves.clearLost (s : State) (mask : BitVec 4) : Preserves s (s.clearLost mask) :=
  .quiet rfl rfl rfl rfl rfl rfl rfl rfl rfl rfl rfl le_rfl

theorem Preserves.writeEventLevel (s : State) (k : Fin 7) (v : Byte) : Preserves s (s.writeEventLevel k v) := by
  unfold State.writeEventLevel
  split
  · exact .quiet rfl rfl rfl rfl rfl rfl rfl rfl rfl rfl rfl le_rfl
  · exact Preserves.refl s

theorem Preserves.writeIntCtrl (s : State) (v : Byte) : Preserves s (s.writeIntCtrl v) :=
  .quiet rfl rfl rfl rfl rfl rfl rfl rfl rfl rfl rfl le_rfl

theorem Preserves.writeWakeFloor (s : State) (v : Byte) : Preserves s (s.writeWakeFloor v) := by
  unfold State.writeWakeFloor
  split
  · exact .quiet rfl rfl rfl rfl rfl rfl rfl rfl rfl rfl rfl le_rfl
  · exact Preserves.refl s

theorem Preserves.writeArbiterMode (s : State) (v : Byte) : Preserves s (s.writeArbiterMode v) := by
  unfold State.writeArbiterMode
  split
  · exact .quiet rfl rfl rfl rfl rfl rfl rfl rfl rfl rfl rfl le_rfl
  · exact Preserves.refl s

/-! ## Registers (R192–R197) -/

theorem Preserves.writeChanCtrl (s : State) (v : Byte) : Preserves s (s.writeChanCtrl v) := by
  have taken : Preserves s (if bitAt v 0 then s.takeHead s.chanSel else s) :=
    Preserves.ite (fun _ => Preserves.takeHead s _) fun _ => Preserves.refl s
  exact taken.trans (Preserves.ite (fun _ => Preserves.flushQueue _ _) fun _ => Preserves.refl _)

theorem Preserves.writeEventCtrl (s : State) (v : Byte) : Preserves s (s.writeEventCtrl v) := by
  have cleared : Preserves s (if bitAt v 1 then s.clearLost (BitVec.ofNat 4 (fieldAt v 4 4)) else s) :=
    Preserves.ite (fun _ => Preserves.clearLost s _) fun _ => Preserves.refl s
  exact cleared.trans (Preserves.ite (fun _ => Preserves.presentNext _) fun _ => Preserves.refl _)

theorem Preserves.writeConfigByte (settled : GrantConsistent s → Settled s) (v : Byte) : Preserves s (s.writeConfigByte v) := by
  unfold State.writeConfigByte
  split
  · exact Preserves.writeMode settled v
  · exact Preserves.writeLineSettings s _ v
  · exact Preserves.writePrefixWindow s _ v
  · exact Preserves.writeHoldLimit s _ v
  · exact Preserves.writeTailWindow s _ v
  · exact Preserves.writeLinesEnable s v
  · exact Preserves.writeLinesPolarity s v
  · exact Preserves.writeDebounce s v
  · exact Preserves.writeEventLevel s _ v
  · exact Preserves.writeIntCtrl s v
  · exact Preserves.writeWakeFloor s v
  · exact Preserves.writePulseWidth s _ v
  · exact Preserves.writeArbiterMode s v
  · exact Preserves.refl s

theorem Preserves.writeRegister (settled : GrantConsistent s → Settled s) (a : Fin 32) (v : Byte) :
    Preserves s (s.writeRegister a v) := by
  unfold State.writeRegister
  split
  · exact Preserves.writeCommand s v
  · exact Preserves.writeOperand s v
  · exact Preserves.writeStageAddr s v
  · exact Preserves.writeStageData s v
  · exact Preserves.writeConfigAddr s v
  · exact (Preserves.writeConfigByte settled v).trans (Preserves.advanceConfig _)
  · exact Preserves.writeClassSel s v
  · exact Preserves.writeClassAddr s v
  · exact Preserves.writeClassData s v
  · exact Preserves.writeEventCtrl s v
  · exact Preserves.writeOutputs s v
  · exact Preserves.writeChanSel s v
  · exact Preserves.writeChanCtrl s v
  · exact Preserves.injectByte s _ v
  · exact Preserves.refl s

/-! ## The events of grants (R172) -/

theorem exec_grantEvent_preserves {g : Instr} (isEvent : isGrantEvent g = true) (e : exec g s = .next t) :
    Preserves s t := by
  cases g <;> try exact absurd isEvent Bool.false_ne_true
  case matchPass => cases e; exact Preserves.matchPass s
  case define =>
    cases e
    exact Preserves.takeCommand _ fun _ => Preserves.unlessCompacting (Preserves.withSlot (Preserves.defineWork s))
  case arm => cases e; exact Preserves.takeCommand _ fun _ => Preserves.withSlot (Preserves.armWork s)
  case disarm => cases e; exact Preserves.takeCommand _ fun _ => Preserves.withSlot (Preserves.disarmWork s)
  case delete =>
    cases e
    exact Preserves.takeCommand _ fun _ => Preserves.unlessCompacting (Preserves.withSlot (Preserves.deleteWork s))
  case readBack => cases e; exact Preserves.takeCommand _ fun _ => Preserves.withSlot (Preserves.readBackWork s)
  case clearLockout =>
    cases e
    exact Preserves.takeCommand _ fun _ => Preserves.withSlot fun n => Preserves.removeLockouts s n
  case compact =>
    cases e
    exact Preserves.takeCommand _ fun granted => Preserves.unlessCompacting (Preserves.startCompaction granted)
  case runtimeReset => cases e; exact Preserves.takeCommand _ fun granted => Preserves.runtimeReset granted
  case badCommand =>
    cases e
    split
    · exact Preserves.ite (fun _ => Preserves.takeCommand _ fun _ => Preserves.refl s) fun _ => Preserves.refl s
    · exact Preserves.refl s
  case compactionMove =>
    cases e
    refine Preserves.ite (fun _ => ?_) fun _ => Preserves.refl s
    split
    next n next => exact (Preserves.useGrant s .table).trans (Preserves.compactionMove rfl next)
    next => exact Preserves.refl s
  case compactionEnd =>
    cases e
    exact Preserves.ite (fun _ => (Preserves.useGrant s .table).trans (Preserves.endCompaction rfl))
      fun _ => Preserves.refl s

theorem Preserves.grantTaken (s : State) : Preserves s s.grantTaken :=
  grantTaken_invariant fun _ _ isEvent e => exec_grantEvent_preserves isEvent e

/-! ## Every command -/

/-- An event of the equipment or of time falls after the event of a grant made before it. -/
theorem afterGrant_preserves {f : State → State} (effect : ∀ u, Preserves u (f u)) (e : afterGrant s f = .next t) :
    Preserves s t := by
  cases e
  exact (Preserves.grantTaken s).trans (effect _)

/-- A host access is ignored in reset and else falls after the event of a grant made before it. -/
theorem hostAccess_preserves {f : State → State}
    (effect : ∀ u, (GrantConsistent u → Settled u) → Preserves u (f u)) (e : hostAccess s f = .next t) : Preserves s t := by
  cases e
  exact Preserves.ite (fun _ => Preserves.refl s)
    fun _ => (Preserves.grantTaken s).trans (effect _ settled_grantTaken)

theorem hostRead_preserves {value : State → Byte} {f : State → State} (effect : ∀ u, Preserves u (f u))
    (e : hostRead s value f = .next t) : Preserves s t := by
  cases e
  refine Preserves.ite (fun _ => .quiet rfl rfl rfl rfl rfl rfl rfl rfl rfl rfl rfl le_rfl) fun _ => ?_
  exact ((Preserves.grantTaken s).trans (effect _)).trans (.quiet rfl rfl rfl rfl rfl rfl rfl rfl rfl rfl rfl le_rfl)

/-- A write of one byte of the configuration space is taken when CONFIG_ADDR names that byte (R194). -/
theorem configWrite_preserves {v : Byte} {u w : State} (settled : GrantConsistent u → Settled u)
    (written : u.writeConfigByte v = w) : Preserves u w.advanceConfig :=
  (written ▸ Preserves.writeConfigByte settled v).trans (Preserves.advanceConfig _)

theorem activeModeOf?_active {v : Byte} {m : Mode} (e : activeModeOf? v = some m) : m ≠ .off := by
  unfold activeModeOf? at e
  split at e <;> cases e <;> decide

theorem exec_preserves {c : Instr} (notReset : ∀ asserted, c ≠ .deviceReset asserted) (e : exec c s = .next t) :
    Preserves s t := by
  cases c
  case matchPass | compactionMove | compactionEnd | define | arm | disarm | delete | readBack | clearLockout | compact
      | runtimeReset | badCommand =>
    exact exec_grantEvent_preserves rfl e
  case deviceReset asserted => exact absurd rfl (notReset asserted)
  case timeBaseAdvance =>
    cases e
    exact Preserves.ite (fun _ => Preserves.refl s) fun _ => (Preserves.grantTaken s).trans (Preserves.advanceTime _)
  case grantEnd => exact afterGrant_preserves Preserves.endGrant e
  case frameReceived i f =>
    exact afterGrant_preserves
      (fun u => Preserves.ite (fun frame => Preserves.endFrame frame f) fun _ => Preserves.refl u) e
  case frameStart i =>
    exact afterGrant_preserves (fun u => Preserves.ite (fun _ => Preserves.frameStart u i) fun _ => Preserves.refl u) e
  case falseStart i =>
    exact afterGrant_preserves
      (fun u => Preserves.ite (fun frame => Preserves.falseStart frame) fun _ => Preserves.refl u) e
  case markWaitEnd i =>
    exact afterGrant_preserves (fun u => Preserves.ite (fun _ => Preserves.refl u) fun _ => Preserves.markWaitEnd u i) e
  case rawChange n level =>
    exact afterGrant_preserves
      (fun u => Preserves.ite (fun _ => Preserves.refl u) fun changes => Preserves.changeRawLevel changes) e
  case debouncedChange n => exact afterGrant_preserves (fun u => Preserves.takeChange u n) e
  case takePlainByte i => exact afterGrant_preserves (fun u => Preserves.takePlain u i) e
  case takeLeadByte i => exact afterGrant_preserves (fun u => Preserves.takeLead u i) e
  case takeReleaseByte i => exact afterGrant_preserves (fun u => Preserves.takeRelease u i) e
  case takeDropByte i => exact afterGrant_preserves (fun u => Preserves.takeDrop u i) e
  case takeErrorEntry i => exact afterGrant_preserves (fun u => Preserves.takeError u i) e
  case takeBreakEntry i => exact afterGrant_preserves (fun u => Preserves.takeBreak u i) e
  case overrunTake ch => exact afterGrant_preserves (fun u => Preserves.takeOverrun u ch) e
  case takeLineEntry => exact afterGrant_preserves Preserves.takeLine e
  case prefixExpiry i =>
    exact afterGrant_preserves
      (fun u => Preserves.ite (fun _ => Preserves.discardPrefix u i) fun _ => Preserves.refl u) e
  case gapDeadlineExpiry ch n k => exact afterGrant_preserves (fun u => Preserves.expireGap u ch n k) e
  case lockoutExpiry ch n => exact afterGrant_preserves (fun u => Preserves.expireLockout u ch n) e
  case tailExpiry ch => exact afterGrant_preserves (fun u => Preserves.expireTail u ch) e
  case pulseExpiry o => exact afterGrant_preserves (fun u => Preserves.expirePulse u o) e
  case modeToOff =>
    cases e
    refine Preserves.ite (fun _ => Preserves.refl s) fun _ => (Preserves.grantTaken s).trans ?_
    have settled := settled_grantTaken (s := s)
    generalize s.grantTaken = u at settled ⊢
    dsimp only
    split
    · exact Preserves.ite (fun _ => Preserves.refl u)
        fun _ => (Preserves.modeOff settled).trans (Preserves.advanceConfig _)
    · exact Preserves.refl u
  case modeOutOfOff v =>
    cases e
    refine Preserves.ite (fun _ => Preserves.refl s) fun _ => (Preserves.grantTaken s).trans ?_
    have settled := settled_grantTaken (s := s)
    generalize s.grantTaken = u at settled ⊢
    dsimp only
    split
    next ch m _ active =>
      exact Preserves.ite (fun off => (Preserves.modeLeaveOff settled off (activeModeOf?_active active)).trans
        (Preserves.advanceConfig _)) fun _ => Preserves.refl u
    next => exact Preserves.refl u
  case modeBypassMatch v =>
    cases e
    refine Preserves.ite (fun _ => Preserves.refl s) fun _ => (Preserves.grantTaken s).trans ?_
    have settled := settled_grantTaken (s := s)
    generalize s.grantTaken = u at settled ⊢
    dsimp only
    split
    · split
      next _ _ matching _ => exact (Preserves.modeMatchToBypass settled matching).trans (Preserves.advanceConfig _)
      next _ _ bypass _ => exact (Preserves.modeBypassToMatch settled bypass).trans (Preserves.advanceConfig _)
      next => exact Preserves.refl u
    · exact Preserves.refl u
  case lineSettingsWrite v | prefixWindowWrite v | holdLimitWrite v | tailWindowWrite v | linesEnableWrite v
      | linesPolarityWrite v | debounceWrite v | eventLevelWrite v | intCtrlWrite v | wakeFloorWrite v
      | pulseWidthWrite v | arbiterModeWrite v =>
    cases e
    refine Preserves.ite (fun _ => Preserves.refl s) fun _ => (Preserves.grantTaken s).trans ?_
    have settled := settled_grantTaken (s := s)
    generalize s.grantTaken = u at settled ⊢
    dsimp only
    split
    next target => exact configWrite_preserves (v := v) settled (by rw [State.writeConfigByte, target])
    next => exact Preserves.refl u
  case operandWrite v => exact hostAccess_preserves (fun u _ => Preserves.writeOperand u v) e
  case commandWrite v => exact hostAccess_preserves (fun u _ => Preserves.writeCommand u v) e
  case stageAddrWrite v => exact hostAccess_preserves (fun u _ => Preserves.writeStageAddr u v) e
  case stageDataWrite v => exact hostAccess_preserves (fun u _ => Preserves.writeStageData u v) e
  case stageDataRead => exact hostRead_preserves Preserves.readStageData e
  case configAddrWrite v => exact hostAccess_preserves (fun u _ => Preserves.writeConfigAddr u v) e
  case configDataRead => exact hostRead_preserves (value := fun u => u.configByte u.configAddr) Preserves.advanceConfig e
  case classSelWrite v => exact hostAccess_preserves (fun u _ => Preserves.writeClassSel u v) e
  case classAddrWrite v => exact hostAccess_preserves (fun u _ => Preserves.writeClassAddr u v) e
  case classDataWrite v => exact hostAccess_preserves (fun u _ => Preserves.writeClassData u v) e
  case classDataRead =>
    exact hostRead_preserves (value := State.classDataByte) (f := fun u => { u with classAddr := u.classAddr + 1 })
      (fun u => .quiet rfl rfl rfl rfl rfl rfl rfl rfl rfl rfl rfl le_rfl) e
  case chanSelWrite v => exact hostAccess_preserves (fun u _ => Preserves.writeChanSel u v) e
  case take => exact hostAccess_preserves (fun u _ => Preserves.takeHead u u.chanSel) e
  case flush => exact hostAccess_preserves (fun u _ => Preserves.flushQueue u u.chanSel) e
  case next => exact hostAccess_preserves (fun u _ => Preserves.presentNext u) e
  case clearLost mask => exact hostAccess_preserves (fun u _ => Preserves.clearLost u mask) e
  case outputsWrite v => exact hostAccess_preserves (fun u _ => Preserves.writeOutputs u v) e
  case inject v => exact hostAccess_preserves (fun u _ => Preserves.injectByte u u.chanSel v) e
  case registerWrite a v => exact hostAccess_preserves (fun u settled => Preserves.writeRegister settled a v) e

end Sys2Proof.Machine

/-! The statements on steps (O56–O60), what every command answers (O2), and the part while RESET is asserted (O4). -/

namespace Sys2Proof.Machine

variable {s t : State}

/-! ## The state after device reset -/

/-- The pieces that the invariants read stand at their device reset values. -/
structure PiecesReset (s : State) : Prop where
  chan : ∀ ch, s.chan ch = .reset
  ser : ∀ i, s.ser i = .reset (s.ser i).rxMark
  line : ∀ n, s.line n = .reset (s.line n).raw
  slot : ∀ n, s.slot n = .free
  output : ∀ o, s.output o = .reset
  eventQueue : s.eventQueue = []
  grant : s.grant = .free
  pendingCommand : s.pendingCommand = none
  compacting : s.compacting = false

theorem piecesReset_deviceReset (s : State) (asserted : Bool) :
    PiecesReset { s.deviceReset with inReset := asserted } where
  chan := deviceReset_chan s
  ser i := (deviceReset_ser s i).trans (congrArg Serial.reset (congrArg Serial.rxMark (deviceReset_ser s i)).symm)
  line n := (deviceReset_line s n).trans (congrArg Line.reset (congrArg Line.raw (deviceReset_line s n)).symm)
  slot := deviceReset_slot s
  output := deviceReset_output s
  eventQueue := rfl
  grant := rfl
  pendingCommand := rfl
  compacting := rfl

theorem piecesReset_reset : PiecesReset State.reset where
  chan := reset_chan
  ser i := by rw [State.ser, show State.reset.serial[i] = Serial.reset true from Vector.getElem_replicate i.isLt]; rfl
  line n := by rw [State.line, show State.reset.lines[n] = Line.reset .high from Vector.getElem_replicate n.isLt]; rfl
  slot := reset_slot
  output := reset_output
  eventQueue := rfl
  grant := rfl
  pendingCommand := rfl
  compacting := rfl

namespace PiecesReset

variable (h : PiecesReset s)

include h

theorem capacity : WithinCapacity s :=
  ⟨fun ch => by rw [h.chan]; decide, by rw [h.eventQueue]; exact Nat.zero_le _⟩

theorem pool : PoolConsistent s := by
  refine ⟨fun n r stored => ?_, fun n m r q _ stored => ?_⟩ <;>
  · rw [h.slot] at stored
    cases stored

theorem receivers : ReceiversConsistent s := by
  rw [receiversConsistent_iff]
  intro i
  rw [h.ser, h.chan]
  exact ⟨by simp [Serial.reset, Chan.reset], by simp [Serial.reset], by simp [Serial.reset],
    by simp [Serial.reset, Assembler.clear], fun _ => rfl⟩

theorem lines : LinesConsistent s := by
  rw [linesConsistent_iff]
  intro n
  rw [h.line]
  exact ⟨by simp [Line.reset], fun _ => rfl, nofun⟩

theorem outputs : OutputsConsistent s := by
  rw [outputsConsistent_iff]
  intro o
  rw [h.output]
  exact ⟨by simp [Output.reset], by decide⟩

theorem grants : GrantConsistent s := by
  refine ⟨fun ch ready => ?_, fun _ => ⟨fun ⟨ch, matching, _⟩ => ?_, fun waits => ?_⟩, ?_, ?_⟩
  · rw [h.chan] at ready
    exact absurd rfl ready
  · rw [h.chan] at matching
    cases matching
  · obtain command | compacting := waits
    · exact command h.pendingCommand
    · rw [h.compacting] at compacting
      cases compacting
  · rw [h.grant]
    exact nofun
  · rw [h.grant]
    exact nofun

theorem arrivals : ArrivalsOrdered s := by
  rw [arrivalsOrdered_iff]
  intro ch
  rw [h.chan]
  exact ⟨.nil, nofun, .nil, nofun, nofun, nofun⟩

theorem contexts : ContextsConsistent s := by
  rw [contextsConsistent_iff]
  intro ch
  rw [h.chan]
  exact ⟨fun _ => ⟨rfl, rfl, rfl⟩, nofun, .nil, List.nodup_nil, nofun⟩

theorem held : HeldWithinLimit s := by
  rw [heldWithinLimit_iff]
  intro ch
  rw [h.chan]
  exact ⟨by decide, by decide, Nat.zero_le _⟩

end PiecesReset

/-- Settles O60: each invariant reads pieces that stand at their reset values. -/
theorem resetMeetsInvariants : Obligations.ResetMeetsInvariants :=
  have reset := piecesReset_reset
  ⟨linesFollowQueue_reset, reset.capacity, reset.pool, reset.receivers, reset.lines, reset.outputs, reset.grants,
    reset.arrivals, reset.contexts, reset.held, nofun⟩

/-! ## Steps (O2, O56–O59) -/

/-- Every command other than a device reset keeps each invariant; a device reset establishes it. -/
theorem exec_preserves_or_resets {c : Instr} (e : exec c s = .next t) : Preserves s t ∨ PiecesReset t := by
  by_cases reset : ∃ asserted, c = .deviceReset asserted
  · obtain ⟨asserted, rfl⟩ := reset
    cases e
    exact .inr (piecesReset_deviceReset s asserted)
  · exact .inl (exec_preserves (fun asserted is => reset ⟨asserted, is⟩) e)

/-- A step keeps what a command keeps, the commands that wait being no part of it. -/
theorem step_keeps {P : State → Prop} (keeps : ∀ {s t}, Preserves s t → P s → P t) (resets : ∀ {t}, PiecesReset t → P t)
    (ignores : ∀ s rest, P s → P { s with pending := rest }) (h : P s) (e : step s = .next t) : P t := by
  unfold step at e
  split at e
  next => cases e; exact h
  next c rest _ =>
    obtain keep | reset := exec_preserves_or_resets e
    · exact keeps keep (ignores s rest h)
    · exact resets reset

/-- Settles O56: every command keeps the capacities and the pool. -/
theorem stepKeepsCapacityAndPool : Obligations.StepKeepsCapacityAndPool :=
  ⟨fun _ _ => step_keeps (·.capacity) (·.capacity) fun _ _ => id,
    fun _ _ => step_keeps (·.pool) (·.pool) fun _ _ => id⟩

/-- Settles O57: every command keeps receivers, lines and outputs. -/
theorem stepKeepsLineSide : Obligations.StepKeepsLineSide :=
  ⟨fun _ _ => step_keeps (·.receivers) (·.receivers) fun _ _ => id,
    fun _ _ => step_keeps (·.lines) (·.lines) fun _ _ => id,
    fun _ _ => step_keeps (·.outputs) (·.outputs) fun _ _ => id⟩

/-- Settles O58: every command keeps grants with claims, and arrivals in order. -/
theorem stepKeepsOrder : Obligations.StepKeepsOrder :=
  ⟨fun _ _ => step_keeps (·.grants) (·.grants) fun _ _ => id,
    fun _ _ => step_keeps (·.arrivals) (·.arrivals) fun _ _ => id⟩

/-- Settles O59: the contexts rest on the other invariants of `Invariants`, and each command keeps them together. -/
theorem stepKeepsContexts : Obligations.StepKeepsContexts := by
  intro s t grants pool arrivals capacity contexts held e
  have kept : Invariants t := step_keeps (P := Invariants) (·.invariants)
    (fun reset => ⟨reset.grants, reset.pool, reset.arrivals, reset.capacity, reset.contexts, reset.held⟩)
    (fun _ _ ⟨grants, pool, arrivals, capacity, contexts, held⟩ =>
      ⟨grants, pool, arrivals, capacity, contexts, held⟩)
    ⟨grants, pool, arrivals, capacity, contexts, held⟩ e
  exact ⟨kept.contexts, kept.held⟩

theorem exec_answers (c : Instr) (s : State) : ∃ t, exec c s = .next t := by
  cases c <;> exact ⟨_, rfl⟩

/-- Settles O2: every meaning is a next state, and no operation touches the commands that wait. -/
theorem everyCommandAnswers : Obligations.EveryCommandAnswers := by
  intro c s
  obtain ⟨t, answered⟩ := exec_answers c s
  refine ⟨t, answered, ?_⟩
  by_cases reset : ∃ asserted, c = .deviceReset asserted
  · obtain ⟨asserted, rfl⟩ := reset
    cases answered
    rfl
  · exact (exec_preserves (fun asserted is => reset ⟨asserted, is⟩) answered).pending

/-! ## While RESET is asserted (R191) -/

theorem exec_hostWrite_reset {c : Instr} (write : isHostWrite c = true) (reset : s.inReset = true) :
    exec c s = .next s := by
  cases c <;> try exact absurd write Bool.false_ne_true
  all_goals exact congrArg Host.Outcome.next (if_pos reset)

/-- A state at its device reset values, RESET, the levels on the lines and the commands that wait apart (log entries 2
and 8). -/
structure AtReset (s : State) : Prop where
  ser : ∀ i, s.ser i = .reset (s.ser i).rxMark
  line : ∀ n, s.line n = .reset (s.line n).raw
  rest : { s with serial := State.reset.serial, lines := State.reset.lines, inReset := false, pending := [] } = State.reset

namespace AtReset

theorem deviceReset (s : State) (asserted : Bool) : AtReset { s.deviceReset with inReset := asserted } :=
  ⟨(piecesReset_deviceReset s asserted).ser, (piecesReset_deviceReset s asserted).line, rfl⟩

variable (h : AtReset s)

include h

theorem deviceReset_eq : s.deviceReset = { s with inReset := false } := by
  have serial : #v[.reset (s.ser 0).rxMark, .reset (s.ser 1).rxMark, .reset (s.ser 2).rxMark] = s.serial := by
    rw [← h.ser 0, ← h.ser 1, ← h.ser 2]
    ext i inside : 1
    match i with
    | 0 | 1 | 2 => rfl
  have lines : #v[.reset (s.line 0).raw, .reset (s.line 1).raw, .reset (s.line 2).raw, .reset (s.line 3).raw,
      .reset (s.line 4).raw, .reset (s.line 5).raw, .reset (s.line 6).raw, .reset (s.line 7).raw] = s.lines := by
    rw [← h.line 0, ← h.line 1, ← h.line 2, ← h.line 3, ← h.line 4, ← h.line 5, ← h.line 6, ← h.line 7]
    ext i inside : 1
    match i with
    | 0 | 1 | 2 | 3 | 4 | 5 | 6 | 7 => rfl
  rw [State.deviceReset, serial, lines, ← h.rest]

theorem heldInReset : HeldInReset s := by
  intro reset
  rw [h.deviceReset_eq, ← reset]

theorem chan (ch : Channel) : s.chan ch = .reset :=
  (congrArg (State.chan · ch) h.rest).trans (reset_chan ch)

theorem output (o : OutputNum) : s.output o = .reset :=
  (congrArg (State.output · o) h.rest).trans (reset_output o)

theorem grant : s.grant = .free := congrArg State.grant h.rest

theorem pendingCommand : s.pendingCommand = none := congrArg State.pendingCommand h.rest

theorem grantTaken : s.grantTaken = s := by
  simp only [State.grantTaken, h.grant]

theorem takeable? (ch : Channel) : s.takeable? ch = none := by
  simp [State.takeable?, h.chan, Chan.reset]

theorem takeByte (i : SerialChannel) (cls : ByteClass) (act : State → Byte → Time → State) :
    s.takeByte i cls act = s := by
  simp only [State.takeByte, h.takeable?]

theorem takeCommand (code : Byte) (work : State → Taken) : s.takeCommand code work = s := by
  simp [State.takeCommand, State.commandGranted, h.grant]

theorem stepGranted : s.stepGranted = false := by
  simp [State.stepGranted, h.grant]

/-- The level of a receive line is the equipment's. -/
theorem modSer (i : SerialChannel) (mark : Bool) {f : Serial → Serial} (is : f (s.ser i) = .reset mark) :
    AtReset (s.modSer i f) := by
  refine ⟨fun j => ?_, h.line, h.rest⟩
  by_cases here : j = i
  · rw [here, ser_modSer_same, is]
    rfl
  · rw [ser_modSer_other s f here]
    exact h.ser j

/-- The level of a discrete line is the equipment's. -/
theorem modLine (n : LineNum) (level : LineLevel) {f : Line → Line} (is : f (s.line n) = .reset level) :
    AtReset (s.modLine n f) := by
  refine ⟨h.ser, fun m => ?_, h.rest⟩
  by_cases here : m = n
  · rw [here, line_modLine_same, is]
    rfl
  · rw [line_modLine_other s f here]
    exact h.line m

/-- No event of a grant is due. -/
theorem grantEvent {g : Instr} (event : isGrantEvent g = true) (e : exec g s = .next t) : t = s := by
  cases g <;> try exact absurd event Bool.false_ne_true
  case matchPass =>
    cases e
    simp [State.matchPass, h.grant]
  case define | arm | disarm | delete | readBack | clearLockout | compact | runtimeReset =>
    cases e
    exact h.takeCommand _ _
  case badCommand =>
    cases e
    simp only [h.pendingCommand]
  case compactionMove | compactionEnd =>
    cases e
    simp [h.stepGranted]

/-- What a command that is no host's access and no reset does to a part at its reset values: at most it moves a line. -/
theorem exec {c : Instr} (notReset : ∀ asserted, c ≠ .deviceReset asserted) (reset : s.inReset = true)
    (e : exec c s = .next t) : AtReset t := by
  cases c
  case deviceReset asserted => exact absurd rfl (notReset asserted)
  case matchPass | compactionMove | compactionEnd | define | arm | disarm | delete | readBack | clearLockout | compact
      | runtimeReset | badCommand =>
    exact h.grantEvent rfl e ▸ h
  case timeBaseAdvance =>
    cases e
    rw [if_pos reset]
    exact h
  case stageDataRead | configDataRead | classDataRead =>
    cases e
    rw [if_pos reset]
    exact ⟨h.ser, h.line, (congrArg (fun u => { u with dataOut := 0 }) h.rest :)⟩
  case grantEnd =>
    cases e
    simp only [h.grantTaken, State.endGrant, h.grant]
    exact h
  case frameReceived i f =>
    have stopped : (s.ser i).reception ≠ .frame := by rw [h.ser]; exact nofun
    cases e
    simp only [h.grantTaken, if_neg stopped]
    exact h
  case falseStart i =>
    have stopped : (s.ser i).reception ≠ .frame := by rw [h.ser]; exact nofun
    cases e
    simp only [h.grantTaken, if_neg stopped]
    exact h
  case frameStart i =>
    cases e
    simp only [h.grantTaken]
    split
    · exact h.modSer i false (by rw [h.ser]; rfl)
    · exact h
  case markWaitEnd i =>
    cases e
    simp only [h.grantTaken]
    split
    · exact h
    · exact h.modSer i true (by rw [h.ser]; rfl)
  case rawChange n level =>
    cases e
    simp only [h.grantTaken]
    split
    · exact h
    · have disabled : (s.line n).debounced = none := by rw [h.line]; rfl
      rw [changeRawLevel_disabled disabled]
      exact h.modLine n level (by rw [h.line]; rfl)
  case debouncedChange n =>
    have still : (s.line n).change = none := by rw [h.line]; rfl
    cases e
    simp only [h.grantTaken, State.takeChange, still]
    exact h
  case takePlainByte i => cases e; simp only [h.grantTaken, State.takePlain, h.takeByte]; exact h
  case takeReleaseByte i => cases e; simp only [h.grantTaken, State.takeRelease, h.takeByte]; exact h
  case takeDropByte i => cases e; simp only [h.grantTaken, h.takeByte]; exact h
  case takeLeadByte i => cases e; simp only [h.grantTaken, State.takeLead, h.takeable?]; exact h
  case takeErrorEntry i => cases e; simp only [h.grantTaken, State.takeError, h.takeable?]; exact h
  case takeBreakEntry i => cases e; simp only [h.grantTaken, State.takeBreak, h.takeable?]; exact h
  case overrunTake ch => cases e; simpa [h.grantTaken, State.takeOverrun, h.chan, Chan.reset] using h
  case takeLineEntry => cases e; simp only [h.grantTaken, State.takeLine, h.takeable?]; exact h
  case prefixExpiry i =>
    have noPrefix : (s.ser i).prefixDeadline = none := by rw [h.ser]; rfl
    cases e
    simpa [h.grantTaken, State.prefixExpirable, noPrefix] using h
  case gapDeadlineExpiry ch n k => cases e; simpa [h.grantTaken, State.expireGap, h.chan, Chan.reset] using h
  case lockoutExpiry ch n => cases e; simpa [h.grantTaken, State.expireLockout, h.chan, Chan.reset] using h
  case tailExpiry ch => cases e; simpa [h.grantTaken, State.expireTail, h.chan, Chan.reset] using h
  case pulseExpiry o => cases e; simpa [h.grantTaken, State.expirePulse, h.output, Output.reset, atOrBefore] using h
  all_goals
    rw [exec_hostWrite_reset rfl reset] at e
    cases e
    exact h

end AtReset

theorem atReset_of_heldInReset (held : HeldInReset s) (reset : s.inReset = true) : AtReset s :=
  held reset ▸ AtReset.deviceReset s true

/-- Settles O4: each host access meets RESET first; whatever else happens moves at most the lines of a part at its reset
values. -/
theorem resetHoldsThePart : Obligations.ResetHoldsThePart := by
  refine ⟨fun s reset => ⟨fun c write => exec_hostWrite_reset write reset, fun c read => ?_,
    congrArg Host.Outcome.next (if_pos reset), fun a => if_pos reset⟩, fun c s t held e => ?_⟩
  · simp only [List.mem_cons, List.not_mem_nil, or_false] at read
    obtain rfl | rfl | rfl := read <;> exact congrArg Host.Outcome.next (if_pos reset)
  · by_cases isReset : ∃ asserted, c = .deviceReset asserted
    · obtain ⟨asserted, rfl⟩ := isReset
      cases e
      exact (AtReset.deviceReset s asserted).heldInReset
    · have notReset : ∀ asserted, c ≠ .deviceReset asserted := fun asserted is => isReset ⟨asserted, is⟩
      intro reset
      have before : s.inReset = true := (exec_preserves notReset e).inReset ▸ reset
      exact ((atReset_of_heldInReset held before).exec notReset before e).heldInReset reset

end Sys2Proof.Machine

/-! What every pass does (chapter 3): the channel it serves, the symbol that no pattern takes up, and where the candidates
it leaves come from. -/

namespace Sys2Proof.Machine

variable {s t : State} {ch : Channel} {x : Symbol}

/-! ## One channel (R48, R49) -/

/-- What a pass leaves, from the state that phase 1 leaves. -/
theorem matchPass_frame (serves : PassServes s ch x) (e : exec .matchPass s = .next t) :
    PassFrame ch (s.passStart ch x.stamp) t
      ∧ Keeps { chans := true, slots := true, outputs := true, events := true } (s.passStart ch x.stamp) t := by
  rw [matchPass_run serves] at e
  cases e
  split
  · exact ⟨(PassFrame.modChan _ ch _ fun _ => ⟨_, _, _, _, _, rfl⟩).trans (.deliver _ _ _),
      ((keepCandidates_keeps _ _ _).mono (by simp [Parts.within])).trans ((deliver_keeps _ _ _).mono (by simp [Parts.within]))⟩
  · exact ⟨PassFrame.passPhases _ _ _, passPhases_keeps _ _ _⟩

/-- Settles O20: the frame of the phases, from the state that phase 1 leaves. -/
theorem passServesOneChannel : Obligations.PassServesOneChannel := by
  intro s ch x serves
  refine ⟨_, matchPass_run serves, ?_⟩
  obtain ⟨⟨⟨cs, ls, tail, queue, lost, own⟩, width, others, slots⟩, keeps⟩ :=
    matchPass_frame serves (matchPass_run serves)
  rw [passStart_chan] at own
  refine ⟨keeps.eq_of_pass, ⟨cs, ls, tail, queue, lost, own⟩, fun j other => ?_, slots, width⟩
  obtain ⟨cs, ls, eq, fewer, less⟩ := others j other
  have same : (s.passStart ch x.stamp).chan j = s.chan j := chan_modChan_other (s := s) (fun c => Chan.afterExpiry c x.stamp) other
  rw [same] at eq fewer less
  exact ⟨cs, ls, eq, fewer, less⟩

/-! ## The symbol that no pattern takes up (R52, R58, R94, R95, R101, R102) -/

theorem deliver_ends {tl : Tail} (inForce : (s.chan ch).tail = some tl) (press : x.release = false) :
    s.deliver ch x = State.storeSymbol (s.modChan ch fun c => { c with tail := none }) ch x := by
  simp only [State.deliver, inForce, press]
  rfl

theorem deliver_counts {tl : Tail} (inForce : (s.chan ch).tail = some tl) (release : x.release = true) :
    s.deliver ch x = s.modChan ch fun c => { c with tail := tl.countDown } := by
  simp only [State.deliver, inForce, release, if_true]

/-- Changes of the served channel one after the other. -/
theorem served_modChan (s : State) (ch : Channel) (f g : Chan → Chan) :
    ((s.modChan ch f).asServed ch).modChan ch g = (s.modChan ch fun c => g (f c)).asServed ch := by
  rw [asServed_modChan, modChan_modChan]

theorem served_chan (s : State) (ch : Channel) (f : Chan → Chan) :
    ((s.modChan ch f).asServed ch).chan ch = f (s.chan ch) :=
  chan_modChan_same s ch f

theorem not_earlierThan {d : Option Time} {t : Time} : (!earlierThan d t) = true ↔ ∀ u ∈ d, t ≤ u := by
  cases d <;> simp [earlierThan]

/-- R51: the lockout records that phase 1 leaves. -/
theorem afterExpiry_lockouts (c : Chan) (stamp : Time) :
    (c.afterExpiry stamp).lockouts = c.lockouts.filter fun l => stamp ≤ l.expiry := by
  refine List.filter_congr fun l _ => ?_
  rw [← decide_not]
  exact decide_eq_decide.mpr Nat.not_lt

/-- R51: candidates that phase 1 keeps. -/
theorem filter_inTime {cs : List Candidate} {stamp : Time} (inTime : ∀ b ∈ cs, ∀ d ∈ b.deadline, stamp ≤ d) :
    cs.filter (fun b => !earlierThan b.deadline stamp) = cs :=
  List.filter_eq_self.mpr fun b hb => not_earlierThan.mpr (inTime b hb)

/-- The channel after a pass that no candidate outlives, with the tail record and the queue given. -/
def Chan.unmatched (c : Chan) (stamp : Time) (tail : Option Tail) (queue : List Symbol) : Chan :=
  { c with
    ready := none, candidates := [], lockouts := c.lockouts.filter (fun l => stamp ≤ l.expiry), tail := tail, queue := queue }

/-- R52, R58: without a candidate and a spawn a pass only delivers its symbol. -/
theorem matchPass_unmatched (serves : PassServes s ch x)
    (unmatched : x.kind = .error ∨ (∀ n, (s.slot n).armed? = none) ∧ (s.chan ch).candidates = []) :
    exec .matchPass s = .next (State.deliver ((s.modChan ch fun c => c.unmatched x.stamp
      (c.tail.filter fun t => !earlierThan t.expiry x.stamp) c.queue).asServed ch) ch x) := by
  rw [matchPass_run serves]
  by_cases error : x.kind = .error
  · rw [if_pos error, State.passStart, State.keepCandidates, served_modChan]
    refine congrArg (fun u => Host.Outcome.next (State.deliver (State.asServed u ch) ch x)) (modChan_congr ?_)
    rw [afterExpiry_lockouts, List.filter_false]
    rfl
  · obtain ⟨unarmed, empty⟩ := unmatched.resolve_left error
    have noCandidates : ((s.passStart ch x.stamp).chan ch).candidates = [] := by
      rw [passStart_chan, Chan.afterExpiry, empty]
      rfl
    rw [if_neg error, passPhases_quiet noCandidates fun n => eligible?_unarmed (unarmed n), State.passStart]
    refine congrArg (fun u => Host.Outcome.next (State.deliver (State.asServed u ch) ch x)) (modChan_congr ?_)
    rw [Chan.unmatched, ← afterExpiry_lockouts, Chan.afterExpiry, empty]
    rfl

/-- Settles O21: the delivery of the symbol, by the tail record and the room in the queue. -/
theorem unmatchedSymbolIsDelivered : Obligations.UnmatchedSymbolIsDelivered := by
  intro s ch x serves unmatched u q
  have u_eq (tail queue) : u tail queue = (s.modChan ch fun c => c.unmatched x.stamp tail queue).asServed ch := rfl
  rw [matchPass_unmatched serves unmatched]
  refine ⟨fun ended => ?_, fun tl isTail inForce release => ?_⟩
  · have stored : State.deliver ((s.modChan ch fun c => c.unmatched x.stamp
        (c.tail.filter fun t => !earlierThan t.expiry x.stamp) c.queue).asServed ch) ch x =
          (u none q).storeSymbol ch x := by
      cases remains : (s.chan ch).tail.filter fun t => !earlierThan t.expiry x.stamp with
      | none =>
        rw [deliver_noTail (by rw [served_chan]; exact remains)]
        exact congrArg (fun u => State.storeSymbol (State.asServed u ch) ch x)
          (modChan_congr (congrArg (fun tail => (s.chan ch).unmatched x.stamp tail q) remains))
      | some tl =>
        obtain ⟨isTail, inForce⟩ := Option.filter_eq_some_iff.mp remains
        have press : x.release = false := (ended tl isTail).resolve_left fun ⟨d, expiry, late⟩ =>
          absurd (not_earlierThan.mp inForce d expiry) (Nat.not_le.mpr late)
        rw [deliver_ends (by rw [served_chan]; exact remains) press, served_modChan]
        rfl
    rw [stored]
    have chan : (u none q).chan ch = (s.chan ch).unmatched x.stamp none q := served_chan s ch _
    have queue : ((u none q).chan ch).queue = q := by rw [chan]; rfl
    have lost : ((u none q).chan ch).lost = (s.chan ch).lost := by rw [chan]; rfl
    refine ⟨fun room => ?_, fun full isLost => ?_, fun full clear => ?_⟩
    · rw [storeSymbol_room (by rw [queue]; exact room) (by rw [chan]; rfl), u_eq, served_modChan]
      rfl
    · rw [storeSymbol_full (by rw [queue]; exact full), loseSymbol_again (lost.trans isLost)]
    · rw [storeSymbol_full (by rw [queue]; exact full), loseSymbol_first (lost.trans clear)]
  · have remains : ((s.chan ch).tail.filter fun t => !earlierThan t.expiry x.stamp) = some tl :=
      Option.filter_eq_some_iff.mpr ⟨isTail, not_earlierThan.mpr inForce⟩
    rw [deliver_counts (by rw [served_chan]; exact remains) release, served_modChan]
    refine ⟨fun more => ?_, fun last => ?_⟩
    · rw [Tail.countDown, if_neg (Nat.not_le.mpr more)]
      rfl
    · rw [Tail.countDown, if_pos last]
      rfl

/-! ## Where the candidates come from (R51, R53–R60) -/

theorem handOn_candidates (s : State) (ch : Channel) (x : Symbol) (d : Disposition) :
    ((s.handOn ch x d).chan ch).candidates.Sublist (s.chan ch).candidates := by
  have delivered : ((s.deliver ch x).chan ch).candidates.Sublist (s.chan ch).candidates := by
    obtain ⟨d, delivered, same⟩ := deliver_delivered s ch x
    rw [same.chan, chan_setChan_same]
    exact delivered.candidates
  cases d with
  | swallowed b tail =>
    have same : ((s.handOn ch x (.swallowed b tail)).chan ch).candidates = (s.chan ch).candidates := by
      unfold State.handOn State.swallow
      dsimp only
      rw [chan_modChan_same]
    exact same ▸ .refl _
  | held => exact delivered
  | free => exact delivered

theorem disarmOneShot_candidates (s : State) (d : Completion) (ch : Channel) :
    ((s.disarmOneShot d).chan ch).candidates.Sublist (s.chan ch).candidates := by
  unfold State.disarmOneShot
  split
  · split
    · rw [leaveArmed_eq, chan_mk_ofFn]
      exact List.filter_sublist
    · exact .refl _
  · exact .refl _

theorem passCompletions_candidates (s : State) (ch : Channel) (x : Symbol) (done : List Completion) :
    ((s.passCompletions ch x done).chan ch).candidates.Sublist (s.chan ch).candidates := by
  have disarmed : ((forEach done State.disarmOneShot ((forEach done (fun t d => t.offerMatch ch x d) s).applyBatch
      (done.filterMap s.actionOf?))).chan ch).candidates.Sublist (s.chan ch).candidates := by
    refine forEach_invariant (P := fun t => (t.chan ch).candidates.Sublist (s.chan ch).candidates) done
      (fun t d _ fewer => (disarmOneShot_candidates t d ch).trans fewer) _ ?_
    rw [chan_applyBatch]
    refine forEach_invariant (P := fun t => (t.chan ch).candidates.Sublist (s.chan ch).candidates) done
      (fun t d _ fewer => ?_) _ (.refl _)
    rw [chan_offerMatch]
    exact fewer
  unfold State.passCompletions
  dsimp only
  split
  · rw [chan_modChan_same]
    exact List.nil_sublist _
  · exact disarmed

/-- What a pass leaves on its channel survived phase 3 or was spawned in phase 4. -/
theorem passPhases_candidates {c : Candidate} (left : c ∈ ((s.passPhases ch x).chan ch).candidates) :
    (∃ b ∈ (s.chan ch).candidates, s.survivor? ch x b = some c)
      ∨ ∃ n, (s.passCandidates ch x).Spawns ch x n ∧ c = (s.passCandidates ch x).spawned x n := by
  have spawning := (handOn_candidates _ ch x _).subset left
  have spawned := (passCompletions_candidates _ ch x _).subset spawning
  have chan (w : Spawning) : (((s.passCandidates ch x).passSpawning ch x w).chan ch).candidates = w.candidates := by
    unfold State.passSpawning
    dsimp only
    split
    · rw [chan_offer, chan_modChan_same]
    · rw [chan_modChan_same]
  obtain ⟨ns, _, spawns, eq, _⟩ := spawnAll_candidates (s.passCandidates ch x) ch x
  rw [chan, eq, passCandidates_chan] at spawned
  rcases List.mem_append.mp spawned with old | new
  · exact .inl (List.mem_filterMap.mp old)
  · obtain ⟨n, hn, rfl⟩ := List.mem_map.mp new
    exact .inr ⟨n, spawns n hn, rfl⟩

/-- Settles O22: R53's table for what survives, R58's conditions for what is spawned. -/
theorem passCandidatesFollowRules : Obligations.PassCandidatesFollowRules := by
  intro s t ch x serves e c left
  rw [matchPass_run serves] at e
  cases e
  split at left
  · have fewer := (handOn_candidates ((s.passStart ch x.stamp).keepCandidates ch fun _ => false) ch x .free).subset left
    rw [State.keepCandidates, chan_modChan_same, List.filter_false] at fewer
    cases fewer
  · rcases passPhases_candidates left with ⟨b, hb, survives⟩ | ⟨n, ⟨r, eligible, long⟩, rfl⟩
    · rw [passStart_chan] at hb
      obtain ⟨stood, inTime⟩ := List.mem_filter.mp hb
      obtain ⟨pattern, birth⟩ := survivor?_same survives
      obtain ⟨_, kept⟩ := survivor?_some survives
      have inTime := not_earlierThan.mp inTime
      cases stored : (s.slot b.pattern).record? with
      | none =>
        rw [fate_none (by exact stored)] at kept
        simp at kept
      | some r =>
        refine .inl ⟨b, stood, r, pattern ▸ stored, pattern, birth, inTime, ?_⟩
        have stored : ((s.passStart ch x.stamp).slot b.pattern).record? = some r := stored
        rcases kept with ⟨fate, same⟩ | ⟨fate, rfl⟩
        · exact .inl (and_assoc.mp ⟨by simpa [Pattern.transparent] using (fate_transparent stored).mp fate, same⟩)
        · obtain ⟨solid, matching, notLast⟩ := (fate_advances stored).mp fate
          rw [advanced_eq stored]
          exact .inr ⟨by simpa [Pattern.transparent] using solid, matching, notLast, rfl, rfl⟩
    · obtain ⟨armed, listed, unlocked, solid, matching⟩ := eligible?_some.mp eligible
      rw [slot_passCandidates] at armed
      rw [passCandidates_chan] at unlocked
      rw [State.elementAt, passCandidates_pool] at matching
      have born : ((s.passStart ch x.stamp).passCandidates ch x).spawned x n =
          ⟨n, 1, gapDeadline r.pattern x.stamp, x.arrival⟩ := by
        rw [State.spawned, slot_passCandidates, armed]
        rfl
      rw [born]
      refine .inr ⟨r, armed, listed, by simpa [Pattern.transparent] using solid, fun l hl same => ?_, matching, long, rfl, rfl,
        rfl⟩
      by_contra fresh
      refine unlocked l (List.mem_append_left _ ?_) same
      rw [passStart_chan]
      exact List.mem_filter.mpr ⟨hl, by simpa using fresh⟩

end Sys2Proof.Machine

/-! Passes on a channel with one ARMED pattern (sections 3.6, 3.7, 5.2, 5.6). -/

namespace Sys2Proof.Machine

variable {s t : State} {ch : Channel} {x : Symbol} {n : PatternNum} {r : Stored}

/-! ## A pass at which nothing has expired -/

/-- The state after phase 1 at which nothing has expired: the symbol taken, the channel served (R49, R51). -/
def State.begun (s : State) (ch : Channel) : State := (s.modChan ch fun c => { c with ready := none }).asServed ch

theorem begun_chan (s : State) (ch : Channel) : (s.begun ch).chan ch = { s.chan ch with ready := none } :=
  served_chan s ch fun c => { c with ready := none }

theorem begun_modChan (s : State) (ch : Channel) (f : Chan → Chan) :
    (s.begun ch).modChan ch f = (s.modChan ch fun c => f { c with ready := none }).asServed ch :=
  served_modChan s ch (fun c => { c with ready := none }) f

/-- R49, R51: phase 1 takes the symbol alone where nothing has expired. -/
theorem matchPass_fresh (serves : PassServes s ch x) (kind : x.kind ≠ .error)
    (inTime : ∀ b ∈ (s.chan ch).candidates, ∀ d ∈ b.deadline, x.stamp ≤ d) (unlocked : (s.chan ch).lockouts = [])
    (untailed : (s.chan ch).tail = none) :
    exec .matchPass s =
      .next ((s.begun ch).passPhases ch x) := by
  rw [matchPass_run serves, if_neg kind]
  have chan := passStart_chan_stays inTime unlocked untailed
  rw [passStart_chan] at chan
  exact congrArg (fun u => Host.Outcome.next (State.passPhases (State.asServed u ch) ch x)) (modChan_congr chan)

/-- Phases 5 to 7 where nothing completed: the symbol is delivered among the candidates that phase 4 left. -/
theorem passPhases_incomplete {w : Spawning} (none : s.advanceCompletions ch x = [])
    (spawning : (s.passCandidates ch x).spawnAll ch x = w) (noneNew : w.completions = []) :
    s.passPhases ch x = ((s.passCandidates ch x).passSpawning ch x w).deliver ch x := by
  unfold State.passPhases
  dsimp only
  rw [spawning, none, noneNew, List.append_nil, inPatternOrder_nil, passCompletions_nil, disposition_nil, handOn_stored]

theorem advanceCompletions_nil (noneDone : ∀ c ∈ (s.chan ch).candidates, s.fate x c ≠ .completes) :
    s.advanceCompletions ch x = [] := by
  simp only [State.advanceCompletions, List.map_eq_nil_iff, List.filter_eq_nil_iff]
  intro c hc
  simp [noneDone c hc]

/-! ## The symbol among the candidates (R90–R94) -/

/-- R94: a symbol that joins the queue within the hold limit cancels nothing. -/
theorem deliver_within (room : (s.chan ch).queue.length < 32) (untailed : (s.chan ch).tail = none)
    (within : (heldUnder s ((s.chan ch).queue ++ [x]) (s.chan ch).candidates).length ≤ (s.chan ch).holdLimit) :
    s.deliver ch x = s.modChan ch fun c => { c with queue := c.queue ++ [x] } := by
  rw [deliver_noTail untailed, State.storeSymbol, if_pos (by exact room), State.appendSymbol]
  refine enforceHold_within ?_ _
  rw [heldCount_eq, heldEntries, chan_modChan_same]
  exact within

theorem heldUnder_lone {c : Candidate} (stored : (s.slot c.pattern).record? = some r) (queue : List Symbol) :
    heldUnder s queue [c] = if r.pattern.swallow then queue.filter (fun e => c.birth ≤ e.arrival) else [] := by
  unfold heldUnder
  simp only [List.any_cons, List.any_nil, Bool.or_false, State.swallowing, swallows_eq stored]
  cases r.pattern.swallow <;> simp

theorem heldUnder_nil (s : State) (queue : List Symbol) : heldUnder s queue [] = [] := by
  simp [heldUnder]

/-- R94, R105: a symbol that joins the queue may cancel swallowing candidates, the oldest first. -/
theorem deliver_enforces (room : (s.chan ch).queue.length < 32) (untailed : (s.chan ch).tail = none) :
    ∃ gone cs, HoldEnforced s ((s.chan ch).queue ++ [x]) (s.chan ch).holdLimit (s.chan ch).candidates gone cs
      ∧ s.deliver ch x = State.offerHoldCancels
          (s.modChan ch fun c => { c with queue := c.queue ++ [x], candidates := cs }) ch gone x.stamp := by
  obtain ⟨gone, cs, enforced, eq⟩ := enforceHold_enforces
    (s.modChan ch fun c => { c with queue := c.queue ++ [x] }) ch x.stamp (s.chan ch).candidates.length (by
      rw [chan_modChan_same]
      exact List.length_filter_le _ _)
  rw [chan_modChan_same] at enforced
  rw [modChan_modChan] at eq
  refine ⟨gone, cs, enforced, ?_⟩
  rw [deliver_noTail untailed, State.storeSymbol, if_pos (by exact room), State.appendSymbol, eq]

/-- R105: beyond the limit the one swallowing candidate is cancelled. -/
theorem deliver_cancels {c : Candidate} (room : (s.chan ch).queue.length < 32) (untailed : (s.chan ch).tail = none)
    (lone : (s.chan ch).candidates = [c]) (swallowing : s.swallowing c = true)
    (beyond : (s.chan ch).holdLimit < (heldUnder s ((s.chan ch).queue ++ [x]) [c]).length) :
    s.deliver ch x = State.offer (s.modChan ch fun c => { c with candidates := [], queue := c.queue ++ [x] })
      ⟨.holdCancel, some ch, some c.pattern, none, x.stamp⟩ := by
  obtain ⟨gone, cs, ⟨fewer, _, cancelled, within, _⟩, eq⟩ := deliver_enforces room untailed (x := x)
  rw [lone] at fewer cancelled
  have empty : cs = [] := by
    rcases List.sublist_singleton.mp fewer with empty | all
    · exact empty
    · rw [all] at within
      exact absurd within (Nat.not_le.mpr beyond)
  have all : gone = [c] := by simpa [empty, swallowing] using cancelled.symm
  rw [eq, empty, all]
  rfl

/-! ## The one ARMED pattern -/

theorem OnlyArmed.stored (only : OnlyArmed s n r) : (s.slot n).record? = some r := by
  rw [only.1]
  rfl

theorem OnlyArmed.eligible?_other (only : OnlyArmed s n r) {m : PatternNum} (other : m ≠ n) : s.eligible? ch x m = none :=
  eligible?_unarmed (only.2 m other)

theorem OnlyArmed.eligible?_none (only : OnlyArmed s n r) (unmatched : elementMatches (s.elementAt r.start) x = false)
    (m : PatternNum) : s.eligible? ch x m = none := by
  by_cases same : m = n
  · exact same ▸ eligible?_unmatched only.1 unmatched
  · exact only.eligible?_other same

theorem not_transparent {p : Pattern} (solid : ¬(p.pressOnly = true ∧ x.release = true)) : p.transparent x = false := by
  simpa [Pattern.transparent] using solid

/-- R59: the one pattern's turn makes a candidate while there is room in the set. -/
theorem spawnAll_spawns (only : OnlyArmed s n r) (eligible : s.eligible? ch x n = some r) (long : 2 ≤ r.pattern.length)
    (few : (s.chan ch).candidates.length < 12) :
    s.spawnAll ch x =
      ⟨(s.chan ch).candidates ++ [⟨n, 1, gapDeadline r.pattern x.stamp, x.arrival⟩], [], none⟩ := by
  rw [spawnAll_lone fun m other => only.eligible?_other other]
  simp only [State.spawnOne, eligible]
  rw [if_neg (by omega), if_neg (Nat.not_le.mpr few)]

/-- R60: the one pattern's turn is refused by a full set. -/
theorem spawnAll_refuses (only : OnlyArmed s n r) (eligible : s.eligible? ch x n = some r) (long : 2 ≤ r.pattern.length)
    (full : 12 ≤ (s.chan ch).candidates.length) :
    s.spawnAll ch x = ⟨(s.chan ch).candidates, [], some n⟩ := by
  rw [spawnAll_lone fun m other => only.eligible?_other other]
  simp only [State.spawnOne, eligible]
  rw [if_neg (by omega), if_pos (by exact full)]
  rfl

theorem passCandidates_empty (empty : (s.chan ch).candidates = []) : s.passCandidates ch x = s := by
  rw [passCandidates_quiet (by simp [empty])]
  exact modChan_eq_self s (by rw [empty, List.filterMap_nil, ← empty])

/-- R54: the candidate that a symbol advances, its deadline renewed. -/
def Stored.onward (r : Stored) (x : Symbol) (b : Candidate) : Candidate :=
  ⟨b.pattern, b.position + 1, gapDeadline r.pattern x.stamp, b.birth⟩

theorem survivor?_advances {b : Candidate} (free : s.startsLockout ch x b.pattern = false)
    (stored : (s.slot b.pattern).record? = some r) (fate : s.fate x b = .advances) :
    s.survivor? ch x b = some (r.onward x b) := by
  simp only [State.survivor?, free, fate, advanced_eq stored]
  rfl

theorem survivor?_transparent {b : Candidate} (free : s.startsLockout ch x b.pattern = false)
    (fate : s.fate x b = .transparent) : s.survivor? ch x b = some b := by
  simp only [State.survivor?, free, fate]
  rfl

theorem survivor?_dies {b : Candidate} (fate : s.fate x b = .dies) : s.survivor? ch x b = none := by
  simp only [State.survivor?, fate, ite_self]

theorem startsLockout_free {m : PatternNum} (free : ∀ b ∈ (s.chan ch).candidates, s.fate x b ≠ .locks) :
    s.startsLockout ch x m = false := by
  rw [← Bool.not_eq_true, startsLockout_iff]
  rintro ⟨b, hb, _, locks⟩
  exact free b hb locks

/-- The held entries of a queue whose youngest symbol is the birth of the one candidate. -/
theorem heldUnder_newborn {queue : List Symbol} (stored : (s.slot n).record? = some r)
    (older : ∀ e ∈ queue, e.arrival < x.arrival) (position : Nat) (deadline : Option Time) :
    heldUnder s (queue ++ [x]) [⟨n, position, deadline, x.arrival⟩] = if r.pattern.swallow then [x] else [] := by
  have before : queue.filter (fun e => decide (x.arrival ≤ e.arrival)) = [] :=
    List.filter_eq_nil_iff.mpr fun e he => by simpa using older e he
  rw [heldUnder_lone stored, List.filter_append, before]
  simp

/-- R59, R94: the phases of a pass at which the one ARMED pattern spawns on an empty context. -/
theorem passPhases_spawns (only : OnlyArmed s n r) (eligible : s.eligible? ch x n = some r) (long : 2 ≤ r.pattern.length)
    (empty : (s.chan ch).candidates = []) (untailed : (s.chan ch).tail = none) (room : (s.chan ch).queue.length < 32)
    (older : ∀ e ∈ (s.chan ch).queue, e.arrival < x.arrival) (limit : 1 ≤ (s.chan ch).holdLimit) :
    s.passPhases ch x = s.modChan ch fun c =>
      { c with candidates := [⟨n, 1, gapDeadline r.pattern x.stamp, x.arrival⟩], queue := c.queue ++ [x] } := by
  have spawning : (s.passCandidates ch x).spawnAll ch x =
      ⟨[⟨n, 1, gapDeadline r.pattern x.stamp, x.arrival⟩], [], none⟩ := by
    rw [passCandidates_empty empty, spawnAll_spawns only eligible long (by simp [empty]), empty]
    rfl
  rw [passPhases_incomplete (advanceCompletions_nil (by simp [empty])) spawning rfl, passCandidates_empty empty,
    passSpawning_none rfl]
  have chan := chan_modChan_same s ch fun c =>
    { c with candidates := [⟨n, 1, gapDeadline r.pattern x.stamp, x.arrival⟩] }
  rw [deliver_within (by rw [chan]; exact room) (by rw [chan]; exact untailed), modChan_modChan]
  rw [chan]
  refine (congrArg List.length (heldUnder_newborn (by exact only.stored) older _ _)).le.trans (le_trans ?_ limit)
  split <;> simp

theorem eligible?_modChan {f : Chan → Chan} (lockouts : (f (s.chan ch)).lockouts = (s.chan ch).lockouts) :
    (s.modChan ch f).eligible? ch x n = s.eligible? ch x n := by
  unfold State.eligible?
  rw [chan_modChan_same, lockouts]
  rfl

/-- R54: phase 3 where the symbol advances every candidate. -/
theorem passCandidates_advances (stored : (s.slot n).record? = some r)
    (advance : ∀ b ∈ (s.chan ch).candidates, b.pattern = n ∧ s.fate x b = .advances) :
    s.passCandidates ch x = s.modChan ch fun c => { c with candidates := c.candidates.map (r.onward x) } := by
  have unlocking : ∀ b ∈ (s.chan ch).candidates, s.fate x b ≠ .locks := fun b hb => by
    rw [(advance b hb).2]
    exact nofun
  have survivors : (s.chan ch).candidates.filterMap (s.survivor? ch x) = (s.chan ch).candidates.map (r.onward x) := by
    rw [← List.filterMap_eq_map]
    refine List.filterMap_congr fun b hb => ?_
    obtain ⟨rfl, fate⟩ := advance b hb
    exact survivor?_advances (startsLockout_free unlocking) stored fate
  rw [passCandidates_quiet unlocking]
  exact modChan_congr (by rw [survivors])

theorem passSpawning_refused {w : Spawning} (refused : w.refused = some n) :
    s.passSpawning ch x w = State.offer (s.modChan ch fun c => { c with candidates := w.candidates })
      ⟨.spawnRefused, some ch, some n, none, x.stamp⟩ := by
  unfold State.passSpawning
  rw [refused]
  rfl

/-- An offer before the delivery of a free symbol comes to the same as the offer after it. -/
theorem deliver_free_offer {o : Offer} (room : (s.chan ch).queue.length < 32) (untailed : (s.chan ch).tail = none)
    (loose : ∀ c ∈ (s.chan ch).candidates, s.swallowing c = false) :
    (s.offer o).deliver ch x = State.offer (s.modChan ch fun c => { c with queue := c.queue ++ [x] }) o := by
  have chan := chan_offer s o ch
  have swallowing : (s.offer o).swallowing = s.swallowing := swallowing_congr (slot_offer s o)
  rw [offer_modChan]
  exact deliver_free (chan ▸ room) (chan ▸ untailed) (by rw [chan, swallowing]; exact loose)

/-- R60: the phases of a pass at which a full set refuses the spawn of the one ARMED pattern. -/
theorem passPhases_refuses (only : OnlyArmed s n r) (eligible : s.eligible? ch x n = some r) (long : 2 ≤ r.pattern.length)
    (loose : r.pattern.swallow = false) (full : 12 ≤ (s.chan ch).candidates.length)
    (advance : ∀ b ∈ (s.chan ch).candidates, b.pattern = n ∧ s.fate x b = .advances)
    (untailed : (s.chan ch).tail = none) (room : (s.chan ch).queue.length < 32) :
    s.passPhases ch x = State.offer
      (s.modChan ch fun c => { c with candidates := c.candidates.map (r.onward x), queue := c.queue ++ [x] })
      ⟨.spawnRefused, some ch, some n, none, x.stamp⟩ := by
  have tried := passCandidates_advances only.stored advance
  have chan := chan_modChan_same s ch fun c => { c with candidates := c.candidates.map (r.onward x) }
  have spawning : (s.passCandidates ch x).spawnAll ch x = ⟨(s.chan ch).candidates.map (r.onward x), [], some n⟩ := by
    have eligible := (eligible?_modChan (x := x) (n := n)
      (f := fun c => { c with candidates := c.candidates.map (r.onward x) }) rfl).trans eligible
    rw [← tried] at chan eligible
    have only : OnlyArmed (s.passCandidates ch x) n r := tried ▸ only
    rw [spawnAll_refuses only eligible long (by rw [chan]; simpa using full), chan]
  have none : s.advanceCompletions ch x = [] :=
    advanceCompletions_nil fun b hb => by rw [(advance b hb).2]; exact nofun
  rw [passPhases_incomplete none spawning rfl, passSpawning_refused rfl, tried, modChan_modChan]
  refine Eq.trans (deliver_free_offer ?_ ?_ fun c hc => ?_) ?_
  · rw [chan_modChan_same]
    exact room
  · rw [chan_modChan_same]
    exact untailed
  · rw [chan_modChan_same] at hc
    obtain ⟨b, hb, rfl⟩ := List.mem_map.mp hc
    obtain ⟨rfl, _⟩ := advance b hb
    exact (swallows_eq only.stored).trans loose
  · rw [modChan_modChan]
    rfl

/-- Settles O23: phase 4 alone acts on the candidates, by the room in the set. -/
theorem lonePatternSpawns : Obligations.LonePatternSpawns := by
  refine ⟨fun s ch x n r serves kind only listed solid first long empty unlocked untailed room older limit => ?_,
    fun s ch x n r serves kind only listed solid first long loose full advance unlocked untailed room => ?_⟩
  · have chan := begun_chan s ch
    have only : OnlyArmed (s.begun ch) n r := only
    have eligible : (s.begun ch).eligible? ch x n = some r :=
      eligible?_some.mpr ⟨only.1, listed, by simp [chan, unlocked], not_transparent solid, first⟩
    rw [matchPass_fresh serves kind (by simp [empty]) unlocked untailed,
      passPhases_spawns only eligible long (by rw [chan]; exact empty) (by rw [chan]; exact untailed)
        (by rw [chan]; exact room) (by rw [chan]; exact older) (by rw [chan]; exact limit), begun_modChan]
    refine ⟨_, rfl, rfl, ?_⟩
    rw [heldEntries, served_chan]
    exact heldUnder_newborn only.stored older _ _
  · have chan := begun_chan s ch
    have only : OnlyArmed (s.begun ch) n r := only
    have eligible : (s.begun ch).eligible? ch x n = some r :=
      eligible?_some.mpr ⟨only.1, listed, by simp [chan, unlocked], not_transparent solid, first⟩
    have advances : ∀ b ∈ ((s.begun ch).chan ch).candidates, b.pattern = n ∧ (s.begun ch).fate x b = .advances := by
      intro b hb
      rw [chan] at hb
      obtain ⟨rfl, _, matching, notLast⟩ := advance b hb
      exact ⟨rfl, (fate_advances only.stored).mpr ⟨not_transparent solid, matching, notLast⟩⟩
    rw [matchPass_fresh serves kind (fun b hb => (advance b hb).2.1) unlocked untailed,
      passPhases_refuses only eligible long loose (by rw [chan]; exact full) advances (by rw [chan]; exact untailed)
        (by rw [chan]; exact room), begun_modChan]
    have same : (s.chan ch).candidates.map (r.onward x) =
        (s.chan ch).candidates.map fun b => ⟨n, b.position + 1, gapDeadline r.pattern x.stamp, b.birth⟩ :=
      List.map_congr_left fun b hb => by rw [Stored.onward, (advance b hb).1]
    refine congrArg (fun u => Host.Outcome.next (State.offer (State.asServed u ch) _)) (modChan_congr ?_)
    rw [same]
    rfl

end Sys2Proof.Machine

/-! The one candidate of the one ARMED pattern, and the hold limit (sections 3.6, 4.4, 5.6). -/

namespace Sys2Proof.Machine

variable {s : State} {ch : Channel} {x : Symbol} {n : PatternNum} {r : Stored} {b c : Candidate}

/-! ## The channel while a pass delivers its symbol -/

/-- The state in which a pass delivers its symbol, `cs` being the candidates that phase 4 left. -/
def State.delivering (s : State) (ch : Channel) (cs : List Candidate) : State :=
  (s.begun ch).modChan ch fun k => { k with candidates := cs }

/-- The state after a pass that appended its symbol among the candidates `cs`. -/
def State.passed (s : State) (ch : Channel) (x : Symbol) (cs : List Candidate) : State :=
  (s.modChan ch fun k => { k with ready := none, candidates := cs, queue := k.queue ++ [x] }).asServed ch

theorem delivering_chan (s : State) (ch : Channel) (cs : List Candidate) :
    (s.delivering ch cs).chan ch = { s.chan ch with ready := none, candidates := cs } := by
  rw [State.delivering, chan_modChan_same, begun_chan]

theorem delivering_modChan (s : State) (ch : Channel) (cs ds : List Candidate) :
    ((s.delivering ch cs).modChan ch fun k => { k with queue := k.queue ++ [x], candidates := ds }) = s.passed ch x ds := by
  rw [State.delivering, modChan_modChan, begun_modChan]
  rfl

theorem delivering_append (s : State) (ch : Channel) (cs : List Candidate) :
    ((s.delivering ch cs).modChan ch fun k => { k with queue := k.queue ++ [x] }) = s.passed ch x cs := by
  rw [State.delivering, modChan_modChan, begun_modChan]
  rfl

theorem passed_held (s : State) (ch : Channel) (x : Symbol) (cs : List Candidate) :
    heldEntries (s.passed ch x cs) ch = heldUnder s ((s.chan ch).queue ++ [x]) cs := by
  rw [heldEntries, State.passed, served_chan]
  rfl

section Delivering

variable (room : (s.chan ch).queue.length < 32) (untailed : (s.chan ch).tail = none)

include room untailed

theorem delivering_free {cs : List Candidate} (loose : ∀ c ∈ cs, s.swallowing c = false) :
    (s.delivering ch cs).deliver ch x = s.passed ch x cs := by
  have chan := delivering_chan s ch cs
  rw [deliver_free (by rw [chan]; exact room) (by rw [chan]; exact untailed) (by rw [chan]; exact loose), delivering_append]

theorem delivering_within {cs : List Candidate}
    (within : (heldUnder s ((s.chan ch).queue ++ [x]) cs).length ≤ (s.chan ch).holdLimit) :
    (s.delivering ch cs).deliver ch x = s.passed ch x cs := by
  have chan := delivering_chan s ch cs
  rw [deliver_within (by rw [chan]; exact room) (by rw [chan]; exact untailed) (by rw [chan]; exact within),
    delivering_append]

theorem delivering_cancels (swallowing : s.swallowing c = true)
    (beyond : (s.chan ch).holdLimit < (heldUnder s ((s.chan ch).queue ++ [x]) [c]).length) :
    (s.delivering ch [c]).deliver ch x =
      (s.passed ch x []).offer ⟨.holdCancel, some ch, some c.pattern, none, x.stamp⟩ := by
  have chan := delivering_chan s ch [c]
  rw [deliver_cancels (s := s.delivering ch [c]) (by rw [chan]; exact room) (by rw [chan]; exact untailed) (by rw [chan])
    swallowing (by rw [chan]; exact beyond), ← delivering_modChan s ch [c] []]

/-- R93, R94, R105: the one candidate holds nothing, holds the queue from its birth on, or is cancelled. -/
theorem delivering_lone (stored : (s.slot c.pattern).record? = some r) :
    let held := ((s.chan ch).queue ++ [x]).filter fun e => c.birth ≤ e.arrival
    (r.pattern.swallow = false →
        (s.delivering ch [c]).deliver ch x = s.passed ch x [c] ∧ heldEntries (s.passed ch x [c]) ch = [])
      ∧ (r.pattern.swallow = true → held.length ≤ (s.chan ch).holdLimit →
        (s.delivering ch [c]).deliver ch x = s.passed ch x [c] ∧ heldEntries (s.passed ch x [c]) ch = held)
      ∧ (r.pattern.swallow = true → (s.chan ch).holdLimit < held.length →
        (s.delivering ch [c]).deliver ch x =
          (s.passed ch x []).offer ⟨.holdCancel, some ch, some c.pattern, none, x.stamp⟩) := by
  intro held
  have swallows : s.swallowing c = r.pattern.swallow := swallows_eq stored
  have isHeld : heldUnder s ((s.chan ch).queue ++ [x]) [c] = if r.pattern.swallow then held else [] :=
    heldUnder_lone stored _
  refine ⟨fun loose => ?_, fun swallow within => ?_, fun swallow beyond => ?_⟩
  · rw [passed_held, isHeld, loose]
    refine ⟨delivering_free room untailed fun d hd => ?_, rfl⟩
    rw [List.mem_singleton.mp hd, swallows, loose]
  · rw [swallow, if_pos rfl] at isHeld
    rw [passed_held]
    exact ⟨delivering_within room untailed (isHeld ▸ within), isHeld⟩
  · rw [swallow, if_pos rfl] at isHeld
    exact delivering_cancels room untailed (swallows.trans swallow) (isHeld ▸ beyond)

end Delivering

/-! ## The fate of the one candidate (R53–R56) -/

theorem fate_dies (stored : (s.slot b.pattern).record? = some r) : s.fate x b = .dies ↔ r.pattern.transparent x = false
    ∧ elementMatches (s.elementAt (r.start + b.position)) x = false
    ∧ (r.pattern.lockout = false ∨ b.position < r.pattern.threshold.val) := by
  rw [fate_eq stored]
  split
  next h => simp [h]
  next h => cases r.pattern.lockout <;> split <;> split <;> simp_all

/-- Phases 3 and 4 of a pass on a channel with one candidate, which the symbol neither completes nor locks out, and on
which nothing spawns. -/
theorem passPhases_lone (lone : (s.chan ch).candidates = [b]) (idle : ∀ m, (s.begun ch).eligible? ch x m = none)
    {cs : List Candidate} (survives : ((s.begun ch).survivor? ch x b).toList = cs)
    (unlocking : s.fate x b ≠ .locks) (incomplete : s.fate x b ≠ .completes) :
    (s.begun ch).passPhases ch x = (s.delivering ch cs).deliver ch x := by
  have candidates : ((s.begun ch).chan ch).candidates = [b] := by
    rw [begun_chan]
    exact lone
  have survivors : [b].filterMap ((s.begun ch).survivor? ch x) = cs := by
    rw [← survives]
    cases h : (s.begun ch).survivor? ch x b <;> simp [h]
  rw [passPhases_survive (by simpa [candidates] using ⟨unlocking, incomplete⟩) idle, State.delivering]
  refine congrArg (State.deliver · ch x) (modChan_congr ?_)
  rw [candidates, survivors]

theorem startsLockout_lone (lone : (s.chan ch).candidates = [b]) (unlocking : s.fate x b ≠ .locks) (m : PatternNum) :
    (s.begun ch).startsLockout ch x m = false := by
  refine startsLockout_free fun d hd => ?_
  rw [begun_chan] at hd
  rw [show d = b by simpa [lone] using hd]
  exact unlocking

/-- Settles O24: R53's table for the one candidate, and R105 at the delivery. -/
theorem loneCandidateFollowsSymbol : Obligations.LoneCandidateFollowsSymbol := by
  intro s ch x n r b serves kind only lone pattern inTime first unlocked untailed room q u held staysAs
  have run := matchPass_fresh serves kind (by simpa [lone] using inTime) unlocked untailed
  have onlyThen : OnlyArmed (s.begun ch) n r := only
  have idle (m : PatternNum) : (s.begun ch).eligible? ch x m = none := onlyThen.eligible?_none first m
  have stored : (s.slot b.pattern).record? = some r := pattern ▸ only.stored
  have stays {c : Candidate} (same : c.pattern = n) (birth : c.birth = b.birth)
      (pass : (s.begun ch).passPhases ch x = (s.delivering ch [c]).deliver ch x) : staysAs c := by
    obtain ⟨loose, within, beyond⟩ := delivering_lone (c := c) room untailed (same ▸ only.stored)
    rw [birth] at within beyond
    rw [same] at beyond
    simp only [staysAs, run, pass]
    exact ⟨fun h => ⟨congrArg _ (loose h).1, (loose h).2⟩, fun h k => ⟨congrArg _ (within h k).1, (within h k).2⟩,
      fun h k => congrArg _ (beyond h k)⟩
  refine ⟨fun pressOnly release => ?_, fun solid => ⟨fun matching notLast => ?_, fun wrong harmless => ?_⟩⟩
  · have fate : s.fate x b = .transparent := (fate_transparent stored).mpr (by simp [Pattern.transparent, pressOnly, release])
    have unlocking : s.fate x b ≠ .locks := by rw [fate]; exact nofun
    exact stays pattern rfl (passPhases_lone lone idle
      (by rw [survivor?_transparent (startsLockout_lone lone unlocking _) fate]; rfl) unlocking (by rw [fate]; exact nofun))
  · have fate : s.fate x b = .advances := (fate_advances stored).mpr ⟨not_transparent solid, matching, notLast⟩
    have unlocking : s.fate x b ≠ .locks := by rw [fate]; exact nofun
    refine stays rfl rfl (passPhases_lone lone idle ?_ unlocking (by rw [fate]; exact nofun))
    rw [survivor?_advances (startsLockout_lone lone unlocking _) stored fate, Stored.onward, pattern]
    rfl
  · have fate : s.fate x b = .dies := (fate_dies stored).mpr ⟨not_transparent solid, wrong, harmless⟩
    rw [run, passPhases_lone (cs := []) lone idle (by rw [survivor?_dies (s := s.begun ch) fate]; rfl) (by rw [fate]; exact nofun) (by rw [fate]; exact nofun),
      delivering_free (cs := []) room untailed (by simp)]
    exact ⟨rfl, (passed_held s ch x []).trans (heldUnder_nil s _)⟩

/-- Settles O25: phase 3 alone acts, and the lockout record keeps the pattern from spawning. -/
theorem loneCandidateLocksOut : Obligations.LoneCandidateLocksOut := by
  intro s ch x n r b serves kind only lone pattern inTime solid wrong lockout reached unlocked untailed room
  have stored : (s.slot b.pattern).record? = some r := pattern ▸ only.stored
  have fate : s.fate x b = .locks := (fate_locks stored).mpr ⟨not_transparent solid, wrong, lockout, reached⟩
  have chan := begun_chan s ch
  have record : (s.begun ch).lockoutRecord x n = ⟨n, x.stamp + 100 * r.pattern.lockoutTime.toNat⟩ := by
    rw [State.lockoutRecord, show ((s.begun ch).slot n).record? = some r from only.stored]
  have tried := passCandidates_locks (s := s.begun ch) (x := x) (by rw [chan]; exact lone) pattern fate
  rw [record] at tried
  generalize hv : ((s.begun ch).modChan ch fun c =>
    { c with candidates := [], lockouts := c.lockouts ++ [⟨n, x.stamp + 100 * r.pattern.lockoutTime.toNat⟩] }) = v at tried
  have locked : v.chan ch =
      { s.chan ch with
        ready := none, candidates := [], lockouts := [⟨n, x.stamp + 100 * r.pattern.lockoutTime.toNat⟩] } := by
    rw [← hv, chan_modChan_same, chan, unlocked]
    rfl
  have idle (m : PatternNum) : ((s.begun ch).passCandidates ch x).eligible? ch x m = none := by
    rw [← Option.not_isSome_iff_eq_none, Option.isSome_iff_exists]
    rintro ⟨q, eligible⟩
    obtain ⟨armed, _, free, _⟩ := eligible?_some.mp eligible
    rw [slot_passCandidates] at armed
    rw [tried, chan_offer, locked] at free
    by_cases same : m = n
    · exact free _ (List.mem_singleton_self _) same.symm
    · have unarmed := only.2 m same
      rw [show s.slot m = .armed q from armed] at unarmed
      cases unarmed
  have incomplete : (s.begun ch).advanceCompletions ch x = [] :=
    advanceCompletions_nil fun d hd => by
      rw [chan] at hd
      rw [show d = b by simpa [lone] using hd, show (s.begun ch).fate x b = .locks from fate]
      exact nofun
  have spawning := spawnAll_none idle
  rw [matchPass_fresh serves kind (by simpa [lone] using inTime) unlocked untailed,
    passPhases_incomplete incomplete spawning rfl, passSpawning_none rfl, modChan_eq_self _ rfl, tried,
    deliver_free_offer (by rw [locked]; exact room) (by rw [locked]; exact untailed) (by rw [locked]; exact nofun), ← hv,
    modChan_modChan, begun_modChan]
  refine congrArg (fun w => Host.Outcome.next (State.offer (State.asServed w ch) _)) (modChan_congr ?_)
  simp only [unlocked]
  rfl

/-! ## The hold limit (R104–R107) -/

theorem offerHoldCancels_advanceConfig (s : State) (ch : Channel) (gone : List Candidate) (t : Time) :
    (s.offerHoldCancels ch gone t).advanceConfig = s.advanceConfig.offerHoldCancels ch gone t := by
  induction gone generalizing s with
  | nil => rfl
  | cons c gone ih =>
    simp only [State.offerHoldCancels, List.foldl_cons] at ih ⊢
    rw [ih, offer_advanceConfig]

theorem writeHoldLimit_refused {v : Byte} (refused : v.toNat = 0 ∨ 32 < v.toNat) : s.writeHoldLimit ch v = s :=
  if_neg (by omega)

theorem writeHoldLimit_within {v : Byte} (low : 1 ≤ v.toNat) (high : v.toNat ≤ 32)
    (within : (heldEntries s ch).length ≤ v.toNat) :
    s.writeHoldLimit ch v = s.modChan ch fun c => { c with holdLimit := v.toNat } := by
  rw [State.writeHoldLimit, if_pos ⟨low, high⟩]
  refine enforceHold_within ?_ _
  rw [heldCount_eq, heldEntries, chan_modChan_same]
  exact within

theorem writeHoldLimit_enforces {v : Byte} (low : 1 ≤ v.toNat) (high : v.toNat ≤ 32) :
    ∃ gone cs, HoldEnforced s (s.chan ch).queue v.toNat (s.chan ch).candidates gone cs
      ∧ s.writeHoldLimit ch v = State.offerHoldCancels
          (s.modChan ch fun c => { c with holdLimit := v.toNat, candidates := cs }) ch gone s.timeBase := by
  obtain ⟨gone, cs, enforced, eq⟩ := enforceHold_enforces (s.modChan ch fun c => { c with holdLimit := v.toNat }) ch
    s.timeBase (s.chan ch).candidates.length (by
      rw [chan_modChan_same]
      exact List.length_filter_le _ _)
  rw [chan_modChan_same] at enforced
  rw [modChan_modChan] at eq
  exact ⟨gone, cs, enforced, (if_pos ⟨low, high⟩).trans eq⟩

/-- R53: a symbol that every candidate lets through leaves them as they are. -/
theorem passPhases_transparent (transparent : ∀ c ∈ (s.chan ch).candidates, s.fate x c = .transparent)
    (idle : ∀ m, s.eligible? ch x m = none) : s.passPhases ch x = s.deliver ch x := by
  have unlocking (m : PatternNum) : s.startsLockout ch x m = false :=
    startsLockout_free fun c hc => by rw [transparent c hc]; exact nofun
  have survivors : (s.chan ch).candidates.filterMap (s.survivor? ch x) = (s.chan ch).candidates := by
    rw [List.filterMap_congr (g := some) fun c hc => survivor?_transparent (unlocking _) (transparent c hc),
      List.filterMap_some]
  rw [passPhases_survive (fun c hc => by rw [transparent c hc]; exact ⟨nofun, nofun⟩) idle]
  exact congrArg (State.deliver · ch x) (modChan_eq_self s (by rw [survivors]))

/-- Settles O32: R105's rounds, at the write and at the append. -/
theorem holdLimitIsEnforced : Obligations.HoldLimitIsEnforced := by
  refine ⟨fun s ch v running settled target => ?_, fun s ch x serves kind release pressOnly timely untailed room => ?_⟩
  · rw [exec_holdLimitWrite running settled target]
    refine ⟨fun refused => by rw [writeHoldLimit_refused refused]; rfl, fun low high => ⟨fun within => ?_, ?_⟩⟩
    · rw [writeHoldLimit_within low high within]
      rfl
    · obtain ⟨gone, cs, enforced, eq⟩ := writeHoldLimit_enforces (s := s) (ch := ch) low high
      refine ⟨gone, cs, enforced, ?_⟩
      rw [eq, offerHoldCancels_advanceConfig]
      rfl
  · have transparent (r : Stored) {n : PatternNum} (stored : (s.slot n).record? = some r) :
        r.pattern.transparent x = true := by
      simp [Pattern.transparent, pressOnly n r stored, release]
    have chan : (s.passStart ch x.stamp).chan ch =
        { s.chan ch with ready := none, lockouts := (s.chan ch).lockouts.filter fun l => x.stamp ≤ l.expiry } := by
      rw [passStart_chan, ← afterExpiry_lockouts, Chan.afterExpiry, filter_inTime fun c hc => (timely c hc).2]
      simp only [untailed, Option.filter_none]
    have through : ∀ c ∈ ((s.passStart ch x.stamp).chan ch).candidates, (s.passStart ch x.stamp).fate x c = .transparent := by
      intro c hc
      rw [chan] at hc
      obtain ⟨stored, _⟩ := timely c hc
      obtain ⟨r, stored⟩ := Option.ne_none_iff_exists'.mp stored
      exact (fate_transparent stored).mpr (transparent r stored)
    have idle (m : PatternNum) : (s.passStart ch x.stamp).eligible? ch x m = none := by
      rw [← Option.not_isSome_iff_eq_none, Option.isSome_iff_exists]
      rintro ⟨r, eligible⟩
      obtain ⟨armed, _, _, solid, _⟩ := eligible?_some.mp eligible
      have stored : (s.slot m).record? = some r := by
        rw [show s.slot m = .armed r from armed]
        rfl
      rw [transparent r stored] at solid
      cases solid
    rw [matchPass_run serves, if_neg kind, passPhases_transparent through idle]
    obtain ⟨gone, cs, enforced, eq⟩ := deliver_enforces (s := s.passStart ch x.stamp) (x := x) (by rw [chan]; exact room)
      (by rw [chan]; exact untailed)
    rw [chan] at enforced
    refine ⟨gone, cs, enforced, ?_⟩
    rw [passStart_chan] at chan
    rw [eq, State.passStart, served_modChan]
    refine congrArg (fun u => Host.Outcome.next (State.offerHoldCancels (State.asServed u ch) ch gone x.stamp))
      (modChan_congr ?_)
    rw [chan]

end Sys2Proof.Machine

/-! The line scanner's writes and the passing of time (sections 4.1, 7.3 and 10.2): every line in turn, and the reports in
line order (R181). -/

namespace Sys2Proof.Machine

variable {s t : State}

/-! ## Reports (R180, R183) -/

/-- The reports of a list of lines, each with its state, one after the other. -/
def State.reportLines (s : State) (reports : List (LineNum × Bool)) : State :=
  forEach reports (fun t r => t.reportLine r.1 r.2) s

/-- A channel after a list of arrivals, of which as many as there is room for join the FIFO. -/
def Chan.receiving (c : Chan) (entries : List RawEntry) : Chan :=
  { c with
    fifo := c.fifo ++ entries.take (8 - c.fifo.length)
    overrunPending := c.overrunPending || decide (8 - c.fifo.length < entries.length) }

/-- The first loss among a list of arrivals. -/
abbrev Chan.FirstLoss (c : Chan) (entries : List RawEntry) : Prop :=
  8 - c.fifo.length < entries.length ∧ c.overrunPending = false

/-- What a list of arrivals at CH3 leaves: the first loss offers INPUT_OVERRUN (R183). -/
def State.reported (s : State) (entries : List RawEntry) : State :=
  if (s.chan lineChannel).FirstLoss entries then
    (s.modChan lineChannel fun c => c.receiving entries).offer ⟨.inputOverrun, some lineChannel, none, none, s.timeBase⟩
  else s.modChan lineChannel fun c => c.receiving entries

theorem receiving_full {c : Chan} (full : 8 ≤ c.fifo.length) (pending : c.overrunPending = true) (entries : List RawEntry) :
    c.receiving entries = c := by
  have none : 8 - c.fifo.length = 0 := by omega
  simp only [Chan.receiving, none, List.take_zero, List.append_nil, pending, Bool.true_or]
  rw [← pending]

theorem receiving_room {c : Chan} (room : c.fifo.length < 8) (e : RawEntry) (entries : List RawEntry) :
    { c with fifo := c.fifo ++ [e] }.receiving entries = c.receiving (e :: entries) := by
  have more : 8 - c.fifo.length = (8 - (c.fifo.length + 1)) + 1 := by omega
  simp only [Chan.receiving, List.length_append, List.length_cons, List.length_nil, Nat.zero_add, List.append_assoc]
  rw [more, List.take_succ_cons]
  simp

theorem firstLoss_room {c : Chan} (room : c.fifo.length < 8) (e : RawEntry) (entries : List RawEntry) :
    { c with fifo := c.fifo ++ [e] }.FirstLoss entries ↔ c.FirstLoss (e :: entries) := by
  simp only [Chan.FirstLoss, List.length_append, List.length_cons, List.length_nil]
  refine and_congr_left fun _ => ?_
  omega

theorem reported_nil (s : State) : s.reported [] = s := by
  rw [State.reported, if_neg (by simp [Chan.FirstLoss])]
  exact modChan_eq_self s (by simp [Chan.receiving])

/-- One arrival before the others. -/
theorem reported_cons (s : State) (k : RawKind) (entries : List RawEntry) :
    s.reported (⟨k, s.timeBase⟩ :: entries) = (s.arrive lineChannel k).reported entries := by
  by_cases room : (s.chan lineChannel).fifo.length < 8
  · rw [arrive_room room]
    unfold State.reported
    rw [chan_modChan_same, modChan_modChan]
    have same : (s.modChan lineChannel fun c =>
        { c with fifo := c.fifo ++ [(⟨k, s.timeBase⟩ : RawEntry)] }.receiving entries) =
        s.modChan lineChannel fun c => c.receiving (⟨k, s.timeBase⟩ :: entries) :=
      modChan_congr (receiving_room room _ _)
    rw [same]
    exact if_congr (firstLoss_room room _ _).symm rfl rfl
  have full := Nat.not_lt.mp room
  have none : 8 - (s.chan lineChannel).fifo.length = 0 := by omega
  cases pending : (s.chan lineChannel).overrunPending with
  | true =>
    rw [arrive_lost full pending, State.reported, State.reported, if_neg (by simp [Chan.FirstLoss, pending]),
      if_neg (by simp [Chan.FirstLoss, pending])]
    exact modChan_congr ((receiving_full full pending _).trans (receiving_full full pending _).symm)
  | false =>
    have first : { s.chan lineChannel with overrunPending := true } =
        (s.chan lineChannel).receiving (⟨k, s.timeBase⟩ :: entries) := by
      simp [Chan.receiving, none]
    have chan : ((s.modChan lineChannel fun c => { c with overrunPending := true }).offer
        ⟨.inputOverrun, some lineChannel, Option.none, Option.none, s.timeBase⟩).chan lineChannel =
          { s.chan lineChannel with overrunPending := true } := by
      rw [chan_offer, chan_modChan_same]
    rw [arrive_overruns full pending]
    have before : s.reported (⟨k, s.timeBase⟩ :: entries) =
        (s.modChan lineChannel fun c => { c with overrunPending := true }).offer
          ⟨.inputOverrun, some lineChannel, Option.none, Option.none, s.timeBase⟩ := by
      rw [State.reported, if_pos (by simp [Chan.FirstLoss, pending, none])]
      exact congrArg (State.offer · _) (modChan_congr (g := fun c => { c with overrunPending := true }) first.symm)
    refine before.trans (Eq.symm ?_)
    rw [State.reported, if_neg (by rw [chan]; simp [Chan.FirstLoss])]
    exact modChan_eq_self _ (by rw [chan]; exact receiving_full (c := { s.chan lineChannel with overrunPending := true }) full rfl _)

theorem reportLines_off (off : (s.chan lineChannel).mode = .off) (reports : List (LineNum × Bool)) :
    s.reportLines reports = s :=
  forEach_same reports fun _ _ => reportLine_off off

theorem arrive_mode (s : State) (ch : Channel) (k : RawKind) : ((s.arrive ch k).chan ch).mode = (s.chan ch).mode := by
  unfold State.arrive State.appendRaw
  split
  · rw [chan_modChan_same]
  · split
    · rfl
    · rw [chan_offer, chan_modChan_same]

theorem reportLines_on (on : (s.chan lineChannel).mode ≠ .off) (reports : List (LineNum × Bool)) :
    s.reportLines reports = s.reported (reports.map fun r => ⟨.line r.1 r.2, s.timeBase⟩) := by
  induction reports generalizing s with
  | nil => exact (reported_nil s).symm
  | cons r reports ih =>
    have still : ((s.arrive lineChannel (.line r.1 r.2)).chan lineChannel).mode ≠ .off := by
      rw [arrive_mode]
      exact on
    rw [List.map_cons, reported_cons, State.reportLines, forEach, List.foldl_cons, reportLine_on on]
    exact (ih still).trans (by rw [arrive_timeBase])

/-! ## Every line in turn -/

/-- What a write does to one line: its new setting, and the state it reports if it reports one. -/
def State.lineStep (step : LineNum → Line → Line × Option Bool) (s : State) (n : LineNum) : State :=
  match (step n (s.line n)).2 with
  | some active => (s.setLine n (step n (s.line n)).1).reportLine n active
  | none => s.setLine n (step n (s.line n)).1

theorem enqueueEvent_setLine (s : State) (n : LineNum) (l : Line) (e : EventRecord) :
    (s.setLine n l).enqueueEvent e = (s.enqueueEvent e).setLine n l := by
  unfold State.enqueueEvent
  rw [setLine_eventQueue]
  split
  · rfl
  · split <;> rfl

theorem offer_setLine (s : State) (n : LineNum) (l : Line) (o : Offer) :
    (s.setLine n l).offer o = (s.offer o).setLine n l := by
  unfold State.offer
  rw [show (s.setLine n l).tableLevel o.kind = s.tableLevel o.kind from rfl]
  split
  · exact congrArg State.refreshLines (enqueueEvent_setLine { s with eventSeq := s.eventSeq + 1 } n l _)
  · rfl

theorem reportLine_setLine (s : State) (n m : LineNum) (l : Line) (active : Bool) :
    (s.setLine m l).reportLine n active = (s.reportLine n active).setLine m l := by
  have arrives : (s.setLine m l).arrive lineChannel (.line n active) = (s.arrive lineChannel (.line n active)).setLine m l := by
    unfold State.arrive
    rw [chan_setLine]
    split
    · rfl
    · split
      · rfl
      · exact offer_setLine (s.modChan lineChannel fun c => { c with overrunPending := true }) m l _
  unfold State.reportLine
  rw [chan_setLine]
  split
  · rfl
  · exact arrives

/-- The settings of a list of lines, with no report. -/
def State.setLines (step : LineNum → Line → Line × Option Bool) (items : List LineNum) (s : State) : State :=
  forEach items (fun t n => t.setLine n (step n (t.line n)).1) s

theorem setLines_reportLine (step : LineNum → Line → Line × Option Bool) (items : List LineNum) (s : State) (n : LineNum)
    (active : Bool) : (s.reportLine n active).setLines step items = (s.setLines step items).reportLine n active := by
  induction items generalizing s with
  | nil => rfl
  | cons m items ih =>
    simp only [State.setLines, forEach, List.foldl_cons] at ih ⊢
    rw [line_reportLine, ← reportLine_setLine, ih]

/-- The reports of a write come to the same after all the settings as each after its own. -/
theorem forEach_lineStep (step : LineNum → Line → Line × Option Bool) (items : List LineNum) (distinct : items.Nodup)
    (s : State) : forEach items (State.lineStep step) s =
      (s.setLines step items).reportLines (items.filterMap fun n => (step n (s.line n)).2.map fun a => (n, a)) := by
  induction items generalizing s with
  | nil => rfl
  | cons n items ih =>
    obtain ⟨fresh, distinct⟩ := List.nodup_cons.mp distinct
    have others (t : State) (same : ∀ m, m ≠ n → t.line m = s.line m) :
        (items.filterMap fun m => (step m (t.line m)).2.map fun a => (m, a)) =
          items.filterMap fun m => (step m (s.line m)).2.map fun a => (m, a) :=
      List.filterMap_congr fun m hm => by rw [same m fun is => fresh (is ▸ hm)]
    have set (m : LineNum) (other : m ≠ n) : (s.setLine n (step n (s.line n)).1).line m = s.line m :=
      line_setLine_other s _ other
    have first : s.setLines step (n :: items) = (s.setLine n (step n (s.line n)).1).setLines step items := rfl
    rw [forEach, List.foldl_cons, first]
    cases report : (step n (s.line n)).2 with
    | none =>
      rw [List.filterMap_cons_none (by rw [report]; rfl), ← others _ set, ← ih distinct]
      simp only [State.lineStep, report]
      rfl
    | some active =>
      have set (m : LineNum) (other : m ≠ n) :
          ((s.setLine n (step n (s.line n)).1).reportLine n active).line m = s.line m :=
        (line_reportLine _ n active m).trans (set m other)
      have reported : s.lineStep step n = (s.setLine n (step n (s.line n)).1).reportLine n active := by
        simp only [State.lineStep, report]
      rw [List.filterMap_cons_some (by rw [report]; rfl), reported]
      refine (ih distinct _).trans ?_
      rw [setLines_reportLine, others _ set]
      rfl

theorem setLines_all (step : LineNum → Line → Line × Option Bool) (s : State) :
    s.setLines step allLines = { s with lines := Vector.ofFn fun n => (step n (s.line n)).1 } :=
  forEach_modLine s fun n l => (step n l).1

/-- Two operations that agree wherever a property holds which both keep. -/
theorem forEach_congr {α : Type} {P : State → Prop} {f g : State → α → State} (items : List α)
    (same : ∀ t a, P t → f t a = g t a) (keep : ∀ t a, P t → P (g t a)) (start : P s) :
    forEach items f s = forEach items g s := by
  induction items generalizing s with
  | nil => rfl
  | cons a items ih =>
    simp only [forEach, List.foldl_cons] at ih ⊢
    rw [same s a start]
    exact ih (keep s a start)

theorem allLines_nodup : allLines.Nodup := by decide

/-- R181: what a write that goes through the lines leaves. -/
theorem forEach_allLines (step : LineNum → Line → Line × Option Bool) (s : State) :
    forEach allLines (State.lineStep step) s =
      State.reportLines { s with lines := Vector.ofFn fun n => (step n (s.line n)).1 }
        (allLines.filterMap fun n => (step n (s.line n)).2.map fun a => (n, a)) := by
  rw [forEach_lineStep step allLines allLines_nodup, setLines_all]

/-! ## The changes that are due (R180) -/

/-- The level that a line takes when its pending change is due, the debounce time and the time base given. -/
def Line.dueLevel? (l : Line) (debounce : Byte) (now : Time) : Option LineLevel :=
  l.change.bind fun p => if p.time + debounce.toNat ≤ now then some p.level else none

/-- The scanner's turn on one line. -/
def Line.takeDue (debounce : Byte) (now : Time) (l : Line) : Line × Option Bool :=
  match l.dueLevel? debounce now with
  | some d => ({ l with debounced := some d, change := none }, some (l.activeAt d))
  | none => (l, none)

theorem takeChange_lineStep (s : State) (n : LineNum) :
    s.takeChange n = s.lineStep (fun _ => Line.takeDue s.debounce s.timeBase) n := by
  unfold State.lineStep
  cases pending : (s.line n).change with
  | none =>
    rw [takeChange_noChange pending]
    simp [Line.takeDue, Line.dueLevel?, pending]
  | some p =>
    by_cases due : p.time + s.debounce.toNat ≤ s.timeBase
    · rw [takeChange_due pending due]
      simp only [Line.takeDue, Line.dueLevel?, pending, Option.bind_some, if_pos due]
      rfl
    · rw [takeChange_none (by simp [State.changeDue, pending, atOrBefore, due])]
      simp [Line.takeDue, Line.dueLevel?, pending, due]

theorem takeDueChanges_eq (s : State) :
    s.takeDueChanges = State.reportLines
      { s with lines := Vector.ofFn fun n => ((s.line n).takeDue s.debounce s.timeBase).1 }
      (allLines.filterMap fun n => ((s.line n).takeDue s.debounce s.timeBase).2.map fun a => (n, a)) := by
  rw [← forEach_allLines (fun _ => Line.takeDue s.debounce s.timeBase)]
  refine forEach_congr (P := fun t => t.debounce = s.debounce ∧ t.timeBase = s.timeBase) allLines
    (fun t n ⟨debounce, time⟩ => ?_) (fun t n ⟨debounce, time⟩ => ?_) ⟨rfl, rfl⟩
  · rw [takeChange_lineStep, debounce, time]
  · unfold State.lineStep
    split
    · exact ⟨(reportLine_debounce _ _ _).trans debounce, (reportLine_timeBase _ _ _).trans time⟩
    · exact ⟨debounce, time⟩

/-! ## The writes (R181) -/

theorem reported_advanceConfig (s : State) (entries : List RawEntry) :
    (s.reported entries).advanceConfig = s.advanceConfig.reported entries := by
  unfold State.reported
  rw [apply_ite State.advanceConfig, offer_advanceConfig]
  rfl

/-- What the reports of a list of lines leave, CH3 being in OFF or not. -/
theorem reportLines_eq (s : State) (reports : List (LineNum × Bool)) :
    s.reportLines reports = s.reported (if (s.chan lineChannel).mode = .off then []
      else reports.map fun r => ⟨.line r.1 r.2, s.timeBase⟩) := by
  split
  next off => rw [reportLines_off off, reported_nil]
  next on => exact reportLines_on on reports

/-- A polarity write on one line: an enabled line whose polarity changes reports its new state. -/
def Line.repolarize (high : Bool) (l : Line) : Line × Option Bool :=
  ({ l with activeHigh := high },
    if l.enabled && l.debounced.isSome && (l.activeHigh != high) then some ((l.debounced == some .high) == high) else none)

theorem setPolarity_lineStep (s : State) (n : LineNum) (high : Bool) :
    s.setPolarity n high = s.lineStep (fun _ => Line.repolarize high) n := by
  by_cases same : (s.line n).activeHigh = high
  · have none : ((s.line n).repolarize high).2 = none := by simp [Line.repolarize, same]
    have unchanged : ((s.line n).repolarize high).1 = s.line n := by simp only [Line.repolarize, ← same]
    simp only [State.lineStep, none, unchanged]
    rw [State.setPolarity, if_pos same, setLine_self]
  · have changes : ((s.line n).activeHigh != high) = true := by simpa using same
    rw [State.setPolarity, if_neg same]
    cases enabled : (s.line n).enabled with
    | false => simp [State.lineStep, Line.repolarize, enabled, State.modLine]
    | true =>
      cases level : (s.line n).debounced with
      | none => simp [State.lineStep, Line.repolarize, level, State.modLine]
      | some d =>
        simp [State.lineStep, Line.repolarize, enabled, level, changes, State.modLine, Line.activeAt]

theorem setEnable_eq (l : Line) (on : Bool) : l.setEnable on =
    if on = l.enabled then l
    else if on then { l with enabled := true, debounced := some l.raw, change := none }
    else { l with enabled := false, debounced := none, change := none } := by
  unfold Line.setEnable
  cases enabled : l.enabled <;> cases on <;> simp

/-- Settles O54: each write goes through the lines in turn, and its reports are arrivals at CH3. -/
theorem lineConfigWrites : Obligations.LineConfigWrites := by
  intro s v running settled room reported
  refine ⟨fun target => ?_, fun target => ?_, fun target => ?_⟩
  · rw [exec_linesEnableWrite running settled target, State.writeLinesEnable, forEach_modLine]
    simp only [setEnable_eq]
    rfl
  · intro flipped entries
    have turn : (fun (t : State) (n : LineNum) => t.setPolarity n (bitAt v n.val)) =
        State.lineStep fun n => Line.repolarize (bitAt v n.val) := by
      funext t n
      exact setPolarity_lineStep t n _
    rw [exec_linesPolarityWrite running settled target, State.writeLinesPolarity, turn, forEach_allLines, reportLines_eq,
      reported_advanceConfig]
    have same : (allLines.filterMap fun n => ((s.line n).repolarize (bitAt v n.val)).2.map fun a => (n, a)).map
        (fun r => (⟨.line r.1 r.2, s.timeBase⟩ : RawEntry)) = flipped.map fun n =>
          (⟨.line n (((s.line n).debounced == some .high) == v.getLsbD n.val), s.timeBase⟩ : RawEntry) := by
      rw [List.map_filterMap, ← List.filterMap_eq_map, List.filterMap_filter]
      refine List.filterMap_congr fun n _ => ?_
      rw [Line.repolarize, apply_ite (Option.map fun a => (n, a)), apply_ite (Option.map _)]
      rfl
    refine congrArg (fun es => Host.Outcome.next (State.reported _ es)) ?_
    exact congrArg (fun es => if (s.chan lineChannel).mode = .off then [] else es) same
  · intro due entries
    have due_eq (n : LineNum) : due n = (s.line n).dueLevel? v s.timeBase := rfl
    have same : (allLines.filterMap fun n => ((s.line n).takeDue v s.timeBase).2.map fun a => (n, a)).map
        (fun r => (⟨.line r.1 r.2, s.timeBase⟩ : RawEntry)) = (List.finRange 8).filterMap fun n =>
          (due n).map fun d => (⟨.line n ((d == .high) == (s.line n).activeHigh), s.timeBase⟩ : RawEntry) := by
      rw [List.map_filterMap]
      refine List.filterMap_congr fun n _ => ?_
      rw [due_eq, Line.takeDue]
      cases (s.line n).dueLevel? v s.timeBase <;> rfl
    have lines : (fun n => ((s.line n).takeDue v s.timeBase).1) = fun n => match due n with
        | some d => { s.line n with debounced := some d, change := none }
        | none => s.line n := by
      funext n
      rw [due_eq, Line.takeDue]
      cases (s.line n).dueLevel? v s.timeBase <;> rfl
    rw [exec_debounceWrite running settled target, State.writeDebounce, takeDueChanges_eq, reportLines_eq,
      reported_advanceConfig]
    have taken : State.reported
        { s with
          debounce := v, configAddr := s.configAddr + 1
          lines := Vector.ofFn fun n => ((s.line n).takeDue v s.timeBase).1 }
        (if (s.chan lineChannel).mode = .off then []
          else (allLines.filterMap fun n => ((s.line n).takeDue v s.timeBase).2.map fun a => (n, a)).map
            fun r => (⟨.line r.1 r.2, s.timeBase⟩ : RawEntry)) =
        State.reported
          { s with
            debounce := v, configAddr := s.configAddr + 1
            lines := Vector.ofFn fun n => match due n with
              | some d => { s.line n with debounced := some d, change := none }
              | none => s.line n } entries := by
      rw [same, lines]
    exact congrArg Host.Outcome.next taken

end Sys2Proof.Machine

/-! Deadlines of outputs and of match contexts (sections 4.1 to 4.5 and 7.3). -/

namespace Sys2Proof.Machine

variable {s t : State}

/-! ## Pulses and the time base (R71, R143) -/

theorem expirePulse_due {o : OutputNum} {d : Time} (deadline : (s.output o).deadline = some d) (due : d ≤ s.timeBase) :
    s.expirePulse o = s.modOutput o fun x => { x with level := .low, deadline := none } :=
  if_pos ((atOrBefore_iff _ _).mpr ⟨d, deadline, due⟩)

theorem expirePulse_later {o : OutputNum} (later : ∀ d ∈ (s.output o).deadline, s.timeBase < d) : s.expirePulse o = s :=
  if_neg fun due => by
    obtain ⟨d, deadline, reached⟩ := (atOrBefore_iff _ _).mp due
    exact Nat.not_le.mpr (later d deadline) reached

/-- The expiry of the pulse of one output. -/
def Output.expire (now : Time) (o : Output) : Output :=
  if atOrBefore o.deadline now then { o with level := .low, deadline := none } else o

theorem expirePulse_eq (s : State) (o : OutputNum) : s.expirePulse o = s.modOutput o (Output.expire s.timeBase) := by
  unfold State.expirePulse State.modOutput Output.expire
  by_cases due : atOrBefore (s.output o).deadline s.timeBase = true
  · simp only [due, if_true]
  · simp only [due, if_false, Bool.false_eq_true, setOutput_self]

theorem forEach_expirePulse (s : State) : forEach allOutputs State.expirePulse s =
    { s with outputs := Vector.ofFn fun o => (s.output o).expire s.timeBase } := by
  rw [← forEach_modOutput s fun _ => Output.expire s.timeBase]
  refine forEach_congr (P := fun t => t.timeBase = s.timeBase) allOutputs (fun t o time => ?_) (fun t o time => time) rfl
  rw [expirePulse_eq, time]

theorem reportLines_keeps (s : State) (reports : List (LineNum × Bool)) :
    Keeps { chans := true, events := true } s (s.reportLines reports) :=
  Keeps.forEach (f := fun t r => t.reportLine r.1 r.2) (fun t r => reportLine_keeps t r.1 r.2) reports s

/-- R143, R180: the outputs and the lines when a millisecond passes. -/
theorem advanceTime_pieces (s : State) :
    (∀ o, s.advanceTime.output o = (s.output o).expire s.timeBase)
      ∧ ∀ n, s.advanceTime.line n = ((s.line n).takeDue s.debounce s.timeBase).1 := by
  have lines : s.takeDueChanges.lines = Vector.ofFn fun n => ((s.line n).takeDue s.debounce s.timeBase).1 := by
    rw [takeDueChanges_eq, (reportLines_keeps _ _).lines rfl]
  have settled : s.settleDue =
      { s.takeDueChanges with outputs := Vector.ofFn fun o => (s.output o).expire s.timeBase } := by
    rw [State.settleDue, forEach_expirePulse]
    simp only [output_takeDueChanges, takeDueChanges_timeBase]
  refine ⟨fun o => ?_, fun n => ?_⟩
  · rw [State.advanceTime, settled]
    exact Vector.getElem_ofFn o.isLt
  · have same : s.advanceTime.lines = s.takeDueChanges.lines := by rw [State.advanceTime, settled]
    rw [State.line, same, lines]
    exact Vector.getElem_ofFn n.isLt

/-- Settles O29: each piece that is due, in turn. -/
theorem pulsesEndAndTimeAdvances : Obligations.PulsesEndAndTimeAdvances := by
  refine ⟨fun s o d settled deadline => ?_, fun s running settled => ?_⟩
  · have run : exec (.pulseExpiry o) s = .next (s.expirePulse o) := afterGrant_settled settled fun t => t.expirePulse o
    rw [run]
    refine ⟨fun due => congrArg _ (expirePulse_due deadline due), fun later => congrArg _ (expirePulse_later ?_)⟩
    rw [deadline]
    rintro _ ⟨⟩
    exact later
  · have run : exec .timeBaseAdvance s = .next s.advanceTime := hostAccess_run running settled State.advanceTime
    rw [run]
    refine ⟨fun changes pulses => ?_, s.advanceTime, rfl, rfl, ?_⟩
    · have noChange : s.takeDueChanges = s := forEach_same allLines fun n _ => takeChange_none (changeDue_false (changes n))
      have noPulse : forEach allOutputs State.expirePulse s = s :=
        forEach_same allOutputs fun o _ => expirePulse_later (pulses o)
      rw [State.advanceTime, State.settleDue, noChange, noPulse]
    · obtain ⟨outputs, lines⟩ := advanceTime_pieces s
      refine ⟨fun o => ?_, fun n => ?_⟩
      · rw [outputs, Output.expire]
        exact if_congr (atOrBefore_iff _ _) rfl rfl
      · rw [lines, Line.takeDue, Line.dueLevel?]
        cases (s.line n).change with
        | none => rfl
        | some p =>
          by_cases due : p.time + s.debounce.toNat ≤ s.timeBase
          · simp only [Option.bind_some, if_pos due]
          · simp only [Option.bind_some, if_neg due]

/-! ## The deadlines of a match context (R75, R78, R81, R85) -/

section Split

variable {α : Type} {p : α → Bool} {pre post : List α} {a : α}

/-- The first element that satisfies a test, found and removed. -/
theorem find?_split (before : ∀ b ∈ pre, p b = false) (here : p a = true) : (pre ++ a :: post).find? p = some a := by
  rw [List.find?_append, List.find?_eq_none.mpr (by simpa using before), Option.none_or, List.find?_cons_of_pos here]

theorem eraseP_split (before : ∀ b ∈ pre, p b = false) (here : p a = true) : (pre ++ a :: post).eraseP p = pre ++ post := by
  rw [List.eraseP_append_right _ (by simpa using before), List.eraseP_cons_of_pos here]

end Split

/-- Settles O28: what the command finds, and R75's condition. -/
theorem contextDeadlinesExpire : Obligations.ContextDeadlinesExpire := by
  intro s ch d settled free
  have gap (n : PatternNum) (k : Nat) : exec (.gapDeadlineExpiry ch n k) s = .next (s.expireGap ch n k) :=
    afterGrant_settled settled fun t => t.expireGap ch n k
  have lockout (n : PatternNum) : exec (.lockoutExpiry ch n) s = .next (s.expireLockout ch n) :=
    afterGrant_settled settled fun t => t.expireLockout ch n
  have tail : exec (.tailExpiry ch) s = .next (s.expireTail ch) := afterGrant_settled settled fun t => t.expireTail ch
  have expirable : s.expirable ch d = true ↔ free := expirable_iff s ch d
  refine ⟨fun pre post b split first deadline => ?_, fun pre post n split first => ?_, fun k is => ?_⟩
  · have before : ∀ a ∈ pre, namesCandidate b.pattern b.position a = false := by
      simpa [namesCandidate] using first
    have here : namesCandidate b.pattern b.position b = true := by simp [namesCandidate]
    have expires : s.expireGap ch b.pattern b.position = if s.expirable ch d then
        s.modChan ch fun c => { c with candidates := pre ++ post } else s := by
      simp only [State.expireGap, split, find?_split before here, Option.bind_some, deadline]
      exact if_congr Iff.rfl (modChan_congr (by rw [split, eraseP_split before here])) rfl
    rw [gap, expires]
    exact ⟨fun h => by rw [if_pos (expirable.mpr h)], fun h => by rw [if_neg (mt expirable.mp h)]⟩
  · have before : ∀ a ∈ pre, (a.pattern == n) = false := by simpa using first
    have here : (Lockout.mk n d).pattern == n := by simp
    have expires : s.expireLockout ch n = if s.expirable ch d then
        s.modChan ch fun c => { c with lockouts := pre ++ post } else s := by
      simp only [State.expireLockout, split, find?_split before here]
      exact if_congr Iff.rfl (modChan_congr (by rw [split, eraseP_split before here])) rfl
    rw [lockout, expires]
    exact ⟨fun h => by rw [if_pos (expirable.mpr h)], fun h => by rw [if_neg (mt expirable.mp h)]⟩
  · have expires : s.expireTail ch = if s.expirable ch d then s.modChan ch fun c => { c with tail := none } else s := by
      simp only [State.expireTail, is, Option.bind_some]
    rw [tail, expires]
    exact ⟨fun h => by rw [if_pos (expirable.mpr h)], fun h => by rw [if_neg (mt expirable.mp h)]⟩

/-! ## An expiry before a pass (R76) -/

/-- A change of the served channel that phase 1 of the pass would make too. -/
theorem matchPass_modChan {ch : Channel} {x : Symbol} (serves : PassServes s ch x) {f : Chan → Chan}
    (mode : (f (s.chan ch)).mode = (s.chan ch).mode) (ready : (f (s.chan ch)).ready = (s.chan ch).ready)
    (same : (f (s.chan ch)).afterExpiry x.stamp = (s.chan ch).afterExpiry x.stamp) :
    exec .matchPass (s.modChan ch f) = exec .matchPass s := by
  have chan : (s.modChan ch f).chan ch = f (s.chan ch) := chan_modChan_same s ch f
  have ready_iff (j : Channel) : ReadyChannel (s.modChan ch f) j ↔ ReadyChannel s j := by
    unfold ReadyChannel
    by_cases here : j = ch
    · rw [here, chan, mode, ready]
    · rw [chan_modChan_other (s := s) f here]
  have servesToo : PassServes (s.modChan ch f) ch x := by
    obtain ⟨decided, matching, waits, k, next, notReady⟩ := serves
    exact ⟨decided, by rw [chan, mode, matching], by rw [chan, ready, waits], k, next,
      fun j before => mt (ready_iff _).mp (notReady j before)⟩
  have start : (s.modChan ch f).passStart ch x.stamp = s.passStart ch x.stamp := by
    rw [State.passStart, modChan_modChan]
    exact congrArg (State.asServed · ch) (modChan_congr same)
  rw [matchPass_run servesToo, matchPass_run serves, start]

/-- R75, R76: what may expire while a symbol waits has a deadline before the symbol's stamp. -/
theorem expirable_before {ch : Channel} {x : Symbol} {d : Time} (waits : (s.chan ch).ready = some x)
    (expirable : s.expirable ch d = true) : d < x.stamp := by
  obtain ⟨_, free⟩ := (expirable_iff s ch d).mp expirable
  by_contra late
  exact free (.inr (.inr ⟨x, waits, Nat.not_lt.mp late⟩))

/-- Settles O27: what an expiry removes has a deadline before the symbol's stamp, for the symbol waits (R75). -/
theorem expiryOrderIsIrrelevant : Obligations.ExpiryOrderIsIrrelevant := by
  intro s t ch x c granted settled serves expiry e
  have waits : (s.chan ch).ready = some x := serves.2.2.1
  obtain ⟨n, k, rfl⟩ | ⟨n, rfl⟩ | rfl := expiry
  · rw [show exec (.gapDeadlineExpiry ch n k) s = .next (s.expireGap ch n k) from
      afterGrant_settled settled fun t => t.expireGap ch n k] at e
    cases e
    unfold State.expireGap
    split
    next d found =>
      split
      next expirable =>
        refine matchPass_modChan (s := granted s) (f := fun c =>
          { c with candidates := c.candidates.eraseP (namesCandidate n k) }) serves rfl rfl ?_
        have same := filter_eraseP (s.chan ch).candidates (namesCandidate n k)
          (fun b => !earlierThan b.deadline x.stamp) fun b is => by
            rw [is] at found
            rw [show b.deadline = some d from found]
            simpa [earlierThan] using expirable_before waits expirable
        exact congrArg (fun cs => { (s.chan ch).afterExpiry x.stamp with candidates := cs }) same
      next => rfl
    next => rfl
  · rw [show exec (.lockoutExpiry ch n) s = .next (s.expireLockout ch n) from
      afterGrant_settled settled fun t => t.expireLockout ch n] at e
    cases e
    unfold State.expireLockout
    split
    next r found =>
      split
      next expirable =>
        refine matchPass_modChan (s := granted s) (f := fun c =>
          { c with lockouts := c.lockouts.eraseP fun r => r.pattern == n }) serves rfl rfl ?_
        have same := filter_eraseP (s.chan ch).lockouts (fun r => r.pattern == n)
          (fun l => !decide (l.expiry < x.stamp)) fun l is => by
            rw [is] at found
            cases found
            simpa using expirable_before waits expirable
        exact congrArg (fun ls => { (s.chan ch).afterExpiry x.stamp with lockouts := ls }) same
      next => rfl
    next => rfl
  · rw [show exec (.tailExpiry ch) s = .next (s.expireTail ch) from
      afterGrant_settled settled fun t => t.expireTail ch] at e
    cases e
    unfold State.expireTail
    split
    next d found =>
      split
      next expirable =>
        refine matchPass_modChan (s := granted s) (f := fun c => { c with tail := none }) serves rfl rfl ?_
        have same : (s.chan ch).tail.filter (fun t => !earlierThan t.expiry x.stamp) = none := by
          obtain ⟨tl, isTail, expiry⟩ := Option.bind_eq_some_iff.mp found
          rw [isTail]
          simpa [earlierThan, expiry] using expirable_before waits expirable
        exact congrArg (fun tl => { (s.chan ch).afterExpiry x.stamp with tail := tl }) same.symm
      next => rfl
    next => rfl

end Sys2Proof.Machine

/-! DEFINE and the compaction (sections 8.4 and 9.1). -/

namespace Sys2Proof.Machine

variable {s : State} {n : PatternNum}

/-! ## DEFINE (R40, R153, R154) -/

/-- R40: the free gaps for a run of slot `n`. -/
theorem unallocatedBut_iff (s : State) (n : PatternNum) (a : Nat) : s.allocatedBut n a = false ↔
    ∀ m, m ≠ n → ∀ r, (s.slot m).record? = some r → ¬(r.start ≤ a ∧ a < r.start + r.pattern.length) := by
  rw [← Bool.not_eq_true, allocatedBut_iff]
  push Not
  rfl

theorem firstFit_none {len : Nat} (noGap : ∀ b, b + len ≤ 512 → ∃ k < len, s.allocatedBut n (b + k) = true) :
    s.firstFit n len = none := by
  refine List.find?_eq_none.mpr fun b _ fits => ?_
  simp only [Config.poolSize, Bool.and_eq_true, decide_eq_true_eq, List.all_eq_true, List.mem_range,
    Bool.not_eq_true'] at fits
  obtain ⟨inPool, free⟩ := fits
  obtain ⟨k, inside, taken⟩ := noGap b inPool
  rw [free k inside] at taken
  cases taken

/-- R153: a slot that is not ARMED may be defined. -/
theorem defineWork_idle (idle : (s.slot n).armed? = none) : s.defineWork n = s.defineSlot n := by
  unfold State.defineWork
  cases slot : s.slot n with
  | free => rfl
  | disarmed r => rfl
  | armed r =>
    rw [slot] at idle
    cases idle

theorem defineWork_armed {r : Stored} (armed : s.slot n = .armed r) : s.defineWork n = (.badState, s) := by
  simp only [State.defineWork, armed]

theorem judgeDefine_idle (idle : s.compacting = false) (named : s.operand.toNat = n.val) :
    s.judgeDefine = s.defineWork n := by
  rw [State.judgeDefine, unlessCompacting_idle idle, withSlot_eq named]

theorem exec_define {u : State} {r : Result} (granted : CommandGranted s 1) (judged : s.judgeDefine = (r, u)) :
    exec .define s = .next (u.recorded 1 r) :=
  exec_granted granted rfl judged

/-- Settles O38: the checks of R151 and R153 in their order. -/
theorem defineRefuses : Obligations.DefineRefuses := by
  intro s granted
  refine ⟨fun busy => exec_define granted ?_, fun idle beyond => exec_define granted ?_, fun n idle named =>
    ⟨fun r armed => exec_define granted ?_, fun free invalid => exec_define granted ?_,
      fun free p es staged noGap => exec_define granted ?_⟩⟩
  · rw [State.judgeDefine, unlessCompacting_busy busy]
  · rw [State.judgeDefine, unlessCompacting_idle idle, withSlot_bad beyond]
  · rw [judgeDefine_idle idle named, defineWork_armed armed]
  · rw [judgeDefine_idle idle named, defineWork_idle free, State.defineSlot, invalid]
  · have noFit : s.firstFit n p.length = none := firstFit_none fun b inPool => by
      obtain ⟨m, other, r, stored, k, inside, covers⟩ := noGap b inPool
      exact ⟨k, inside, (allocatedBut_iff s n (b + k)).mpr ⟨m, other, r, stored, covers⟩⟩
    rw [judgeDefine_idle idle named, defineWork_idle free, State.defineSlot, staged]
    simp only [noFit]

/-- Settles O37: the run goes to the lowest gap. -/
theorem defineStoresPattern : Obligations.DefineStoresPattern := by
  intro s n p es a granted idle named free staged gapAt gap lowest
  have gap_iff (b : Nat) : gapAt b ↔ b + p.length ≤ 512 ∧ ∀ k < p.length, s.allocatedBut n (b + k) = false := by
    simp only [unallocatedBut_iff]
    exact and_congr_right fun _ => ⟨fun h k inside m other r stored => h m other r stored k inside,
      fun h m other r stored k inside => h k inside m other r stored⟩
  have long : 1 ≤ p.length := valid_length (stagedPattern?_valid staged)
  have fit : s.firstFit n p.length = some a :=
    firstFit_eq (by have := ((gap_iff a).mp gap).1; omega) ((gap_iff a).mp gap) fun b below fits =>
      lowest b below ((gap_iff b).mpr fits)
  refine ⟨writeElements s.pool a es, exec_define granted ?_, writeElements_get es s.pool a⟩
  rw [judgeDefine_idle idle named, defineWork_idle free, State.defineSlot, staged]
  simp only [fit]
  rfl

/-! ## The steps of a compaction (R167, R168) -/

theorem exec_compactionMove (granted : StepGranted s) {n : PatternNum} (next : s.nextMove? = some n) :
    exec .compactionMove s = .next (State.compactionMove (s.useGrant .table) n) := by
  simp only [exec, execCompactionMove, (stepGranted_iff s).mpr granted, if_true, next]

/-- R39: what stands at a pool address after a run has been placed. -/
theorem elementAt_placeRun (sl : Slot) (a : Nat) (es : List Element) (b : Nat) :
    (s.placeRun n sl a es).elementAt b =
      if h : a ≤ b ∧ b < a + es.length ∧ b < 512 then es[b - a]'(by omega) else s.elementAt b := by
  have pool : (s.placeRun n sl a es).pool = writeElements s.pool a es := rfl
  rw [State.elementAt, pool, State.elementAt]
  by_cases inPool : b < 512
  · have read := writeElements_get es s.pool a ⟨b, inPool⟩
    rw [Vector.getElem?_eq_getElem inPool, Vector.getElem?_eq_getElem inPool, Option.getD_some, Option.getD_some]
    refine read.trans ?_
    by_cases inside : a ≤ b ∧ b < a + es.length
    · rw [dif_pos inside, dif_pos ⟨inside.1, inside.2, inPool⟩]
    · rw [dif_neg inside, dif_neg fun h => inside ⟨h.1, h.2.1⟩]
      rfl
  · rw [dif_neg fun h => inPool h.2.2, Vector.getElem?_eq_none (Nat.not_lt.mp inPool),
      Vector.getElem?_eq_none (Nat.not_lt.mp inPool)]

theorem runElements_length (s : State) (r : Stored) : (s.runElements r).length = r.pattern.length := by
  simp [State.runElements]

section Move

variable {r : Stored} (pool : PoolConsistent s) (stored : (s.slot n).record? = some r) (displaced : s.firstFree < r.start)

include pool stored displaced

/-- R167: the moved run holds its elements in order. -/
theorem moveRun_inside {k : Nat} (inside : k < r.pattern.length) :
    (s.moveRun n).elementAt (s.firstFree + k) = s.elementAt (r.start + k) := by
  have inPool := (pool.1 n r stored).2
  rw [moveRun_eq stored, elementAt_placeRun, dif_pos (by rw [runElements_length]; omega)]
  simp [State.runElements]

omit pool displaced in
theorem moveRun_outside {b : Nat} (outside : ¬(s.firstFree ≤ b ∧ b < s.firstFree + r.pattern.length)) :
    (s.moveRun n).elementAt b = s.elementAt b := by
  rw [moveRun_eq stored, elementAt_placeRun, dif_neg (by rw [runElements_length]; omega)]

omit pool displaced in
theorem moveRun_slot (m : PatternNum) :
    (s.moveRun n).slot m = if m = n then (s.slot n).moveTo s.firstFree else s.slot m := by
  rw [moveRun_eq stored]
  exact slot_setSlot _ n m _

end Move

/-- A run is out of place exactly when some address below it is free. -/
theorem displaced_iff (pool : PoolConsistent s) {r : Stored} (stored : (s.slot n).record? = some r) :
    s.firstFree < r.start ↔ ∃ b < r.start, s.allocated b = false := by
  have inPool := (pool.1 n r stored).2
  have long := poolConsistent_length pool stored
  constructor
  · exact fun displaced => ⟨_, displaced, allocated_firstFree (by omega)⟩
  · rintro ⟨b, below, free⟩
    by_contra inPlace
    rw [allocated_of_lt_firstFree (by omega) (by omega)] at free
    cases free

/-- Settles O46: no run above a free address is out of place. -/
theorem compactionEnds : Obligations.CompactionEnds := by
  intro s granted pool inPlace
  have none : s.nextMove?.isNone = true := by
    rw [Option.isNone_iff_eq_none, ← Option.not_isSome_iff_eq_none, nextMove?_isSome]
    rintro ⟨n, r, stored, displaced⟩
    obtain ⟨b, below, free⟩ := (displaced_iff pool stored).mp displaced
    rw [inPlace n r stored b below] at free
    cases free
  simp only [exec, execCompactionEnd, (stepGranted_iff s).mpr granted, none, Bool.and_self, if_true]
  rfl

/-- R167, R168: a step is its move, and the end of the compaction when the move leaves no run out of place. -/
theorem compactionMove_cases (s : State) (n : PatternNum) :
    (s.moveRun n).nextMove?.isSome = true ∧ s.compactionMove n = s.moveRun n
      ∨ (s.moveRun n).nextMove?.isSome = false ∧ s.compactionMove n = (s.moveRun n).endCompaction := by
  unfold State.compactionMove
  cases next : (s.moveRun n).nextMove? with
  | none => exact .inr ⟨rfl, if_pos rfl⟩
  | some m => exact .inl ⟨rfl, if_neg (by simp)⟩

theorem compactionMove_slot (s : State) (n m : PatternNum) : (s.compactionMove n).slot m = (s.moveRun n).slot m := by
  obtain ⟨_, eq⟩ | ⟨_, eq⟩ := compactionMove_cases s n
  · rw [eq]
  · rw [eq, slot_endCompaction]

theorem compactionMove_elementAt (s : State) (n : PatternNum) (a : Nat) :
    (s.compactionMove n).elementAt a = (s.moveRun n).elementAt a := by
  obtain ⟨_, eq⟩ | ⟨_, eq⟩ := compactionMove_cases s n
  · rw [eq]
  · rw [eq, State.elementAt, endCompaction_pool, State.elementAt]

theorem moveTo_armed?_isSome (f : Nat) (sl : Slot) : (sl.moveTo f).armed?.isSome = sl.armed?.isSome := by
  cases sl <;> rfl

/-- R167: a move leaves every slot its state and its pattern, and every pattern its elements. -/
theorem moveRun_keeps_patterns (pool : PoolConsistent s) (next : s.nextMove? = some n) (m : PatternNum) :
    (((s.moveRun n).slot m).armed?.isSome = (s.slot m).armed?.isSome)
      ∧ ((s.slot m).record? = none → ((s.moveRun n).slot m).record? = none)
      ∧ ∀ r, (s.slot m).record? = some r → ∃ q, ((s.moveRun n).slot m).record? = some q ∧ q.pattern = r.pattern
          ∧ ∀ k < r.pattern.length, (s.moveRun n).elementAt (q.start + k) = s.elementAt (r.start + k) := by
  obtain ⟨r, stored, displaced, lowest⟩ := nextMove?_some next
  rw [moveRun_slot stored]
  by_cases here : m = n
  · subst here
    rw [if_pos rfl]
    rw [stored]
    refine ⟨?_, fun free => absurd free (Option.some_ne_none r), fun q isRun => ?_⟩
    · exact moveTo_armed?_isSome _ _
    · obtain rfl := Option.some.inj isRun
      refine ⟨{ r with start := s.firstFree }, moveTo_record? stored, rfl, fun k inside => ?_⟩
      simpa only using moveRun_inside pool stored displaced inside
  · rw [if_neg here]
    refine ⟨rfl, id, fun q isRun => ⟨q, isRun, rfl, fun k inside => moveRun_outside stored ?_⟩⟩
    have := move_beside pool stored displaced lowest here isRun
    omega

/-- Settles O45: the moved run keeps its elements, and the others lie beside the place it takes. -/
theorem compactionKeepsPatterns : Obligations.CompactionKeepsPatterns := by
  intro s t pool e m
  have stays : (s.slot m).armed?.isSome = (s.slot m).armed?.isSome
      ∧ ((s.slot m).record? = none → (s.slot m).record? = none)
      ∧ ∀ r, (s.slot m).record? = some r → ∃ q, (s.slot m).record? = some q ∧ q.pattern = r.pattern
          ∧ ∀ k < r.pattern.length, s.elementAt (q.start + k) = s.elementAt (r.start + k) :=
    ⟨rfl, id, fun r stored => ⟨r, stored, rfl, fun _ _ => rfl⟩⟩
  cases e
  split
  next granted =>
    split
    next n next =>
      simp only [compactionMove_slot, compactionMove_elementAt]
      exact moveRun_keeps_patterns (s := s.useGrant .table) pool next m
    next => exact stays
  next => exact stays

/-- The parts of the state that a move changes. -/
theorem moveRun_parts {r : Stored} (stored : (s.slot n).record? = some r) :
    s.moveRun n = { s with slots := (s.moveRun n).slots, pool := (s.moveRun n).pool } := by
  rw [moveRun_eq stored]
  rfl

theorem allocated_congr {t : State} (slots : ∀ m, t.slot m = s.slot m) (b : Nat) : t.allocated b = s.allocated b := by
  simp only [State.allocated, slots]

/-- R168: a run is still out of place after a move exactly when the search finds one. -/
theorem moveRun_outOfPlace (pool : PoolConsistent s) (next : s.nextMove? = some n) :
    (s.moveRun n).nextMove?.isSome = true ↔
      ∃ m q, ((s.moveRun n).slot m).record? = some q ∧ ∃ b < q.start, (s.moveRun n).allocated b = false := by
  have poolThen : PoolConsistent (s.moveRun n) := (Preserves.moveRun next).pool pool
  rw [nextMove?_isSome]
  exact exists_congr fun m => exists_congr fun q => and_congr_right fun stored => displaced_iff poolThen stored

/-- Settles O44: the move, and what is out of place after it. -/
theorem compactionMovesLowestRun : Obligations.CompactionMovesLowestRun := by
  intro s n r f granted pool stored displaced free below lowest
  have first : s.firstFree = f := firstFree_eq (by have := (pool.1 n r stored).2; omega) free below
  subst first
  have next : s.nextMove? = some n := nextMove?_eq stored displaced lowest
  set u := s.useGrant .table with hu
  have poolThen : PoolConsistent u := pool
  have storedThen : (u.slot n).record? = some r := stored
  have displacedThen : u.firstFree < r.start := displaced
  refine ⟨u.compactionMove n, exec_compactionMove granted next, fun m other => ?_, fun q armed => ?_, fun q disarmed => ?_,
    fun k inside => ?_, fun b outside => ?_, ?_⟩
  · rw [compactionMove_slot, moveRun_slot storedThen, if_neg other]
    rfl
  · rw [compactionMove_slot, moveRun_slot storedThen, if_pos rfl, show u.slot n = .armed q from armed]
    rfl
  · rw [compactionMove_slot, moveRun_slot storedThen, if_pos rfl, show u.slot n = .disarmed q from disarmed]
    rfl
  · exact (compactionMove_elementAt u n _).trans (moveRun_inside poolThen storedThen displacedThen inside)
  · exact (compactionMove_elementAt u n _).trans (moveRun_outside storedThen outside)
  · intro v outOfPlace
    have outOfPlace_iff : outOfPlace ↔ (u.moveRun n).nextMove?.isSome = true := by
      rw [moveRun_outOfPlace poolThen next]
      simp only [outOfPlace, compactionMove_slot, allocated_congr (compactionMove_slot u n)]
    have moved : (u.compactionMove n).slots = (u.moveRun n).slots ∧ (u.compactionMove n).pool = (u.moveRun n).pool := by
      obtain ⟨_, eq⟩ | ⟨_, eq⟩ := compactionMove_cases u n
      · exact ⟨by rw [eq], by rw [eq]⟩
      · exact ⟨by rw [eq, endCompaction_slots], by rw [eq, endCompaction_pool]⟩
    have isMoved : u.moveRun n = v := by
      rw [moveRun_parts storedThen, ← moved.1, ← moved.2]
      rfl
    obtain ⟨again, eq⟩ | ⟨last, eq⟩ := compactionMove_cases u n
    · exact ⟨fun _ => eq.trans isMoved, fun inPlace => absurd (outOfPlace_iff.mpr again) inPlace⟩
    · refine ⟨fun out => absurd (outOfPlace_iff.mp out) (by simp [last]), fun _ => ?_⟩
      rw [eq, isMoved]
      rfl

end Sys2Proof.Machine


/-! The staging record: its layout, when it is valid, and the record that READ_BACK leaves (O42). -/

namespace Sys2Proof.Machine

variable {r : Vector Byte 58} {p : Pattern} {e : Element} {es : List Element}

/-! ## R38: valid headers and elements -/

theorem valid_iff (p : Pattern) : p.valid = true ↔ HeaderValid p := by
  have locks : (!p.lockout || (decide (1 ≤ p.threshold.val) && decide (p.threshold.val < p.length) && p.lockoutTime != 0)) = true
      ↔ (p.lockout = true → 1 ≤ p.threshold.val ∧ p.threshold.val < p.length ∧ p.lockoutTime ≠ 0) := by
    cases p.lockout <;> simp [and_assoc]
  have tails : (p.tail == 0 || p.swallow) = true ↔ (p.tail ≠ 0 → p.swallow = true) := by
    rw [Bool.or_eq_true, beq_iff_eq, or_iff_not_imp_left]
  simp only [Pattern.valid, HeaderValid, Bool.and_eq_true, decide_eq_true_iff, bne_iff_ne, locks, tails, and_assoc,
    Config.lengthMax]

theorem validIn_iff (p : Pattern) (e : Element) : e.validIn p = true ↔ ElementValid p e := by
  have widths : (e.kind != .symbol || (decide (1 ≤ e.width.val) && decide (e.width.val ≤ 8))) = true
      ↔ (e.kind = .symbol → 1 ≤ e.width.val ∧ e.width.val ≤ 8) := by
    rw [Bool.or_eq_true, bne_iff_ne, or_iff_not_imp_left, not_not, Bool.and_eq_true, decide_eq_true_iff, decide_eq_true_iff]
  rw [Element.validIn, ElementValid, Bool.and_eq_true, widths, Bool.not_eq_true', Bool.and_eq_false_imp]
  simp

/-! ## Section 11.4.5: codes -/

theorem actionOutputOf?_iff {code : Nat} {o : Option OutputNum} :
    actionOutputOf? code = some o ↔ code = actionOutputCode o := by
  constructor
  · unfold actionOutputOf?
    split <;> intro h <;> cases h <;> rfl
  · rintro rfl
    cases o with
    | none => rfl
    | some o => revert o; decide

theorem actionOutputCode_lt (o : Option OutputNum) : actionOutputCode o < 8 := by
  cases o with
  | none => decide
  | some o => exact (by omega : o.val + 1 < 8)

theorem actionModeCode_lt (m : ActionMode) : actionModeCode m < 4 := by
  cases m <;> decide

theorem actionModeOf_iff {code : Nat} (inField : code < 4) {m : ActionMode} :
    actionModeOf code = m ↔ code = actionModeCode m := by
  cases m <;> interval_cases code <;> decide

theorem elementKindOf?_iff {code : Nat} {k : ElementKind} : elementKindOf? code = some k ↔ code = elementKindCode k := by
  constructor
  · unfold elementKindOf?
    split <;> intro h <;> cases h <;> rfl
  · rintro rfl
    cases k <;> rfl

theorem extensionTestOf_iff {code : Nat} (inField : code < 4) {x : ExtensionTest} :
    extensionTestOf code = x ↔ code = extensionTestCode x := by
  cases x <;> interval_cases code <;> decide

theorem releaseTestOf?_iff {code : Nat} {x : ReleaseTest} : releaseTestOf? code = some x ↔ code = releaseTestCode x := by
  constructor
  · unfold releaseTestOf?
    split <;> intro h <;> cases h <;> rfl
  · rintro rfl
    cases x <;> rfl

theorem elementKindCode_lt (k : ElementKind) : elementKindCode k < 4 := by
  cases k <;> decide

theorem extensionTestCode_lt (x : ExtensionTest) : extensionTestCode x < 4 := by
  cases x <;> decide

theorem releaseTestCode_lt (x : ReleaseTest) : releaseTestCode x < 4 := by
  cases x <;> decide

theorem ofNat_eq_iff {w n : Nat} (inWidth : n < 2 ^ w) {x : BitVec w} : BitVec.ofNat w n = x ↔ n = x.toNat := by
  rw [← BitVec.toNat_inj, BitVec.toNat_ofNat, Nat.mod_eq_of_lt inWidth]

/-! ## Section 11.4.5: the layout -/

/-- The header of a staging record shows the fields of `p`. -/
def HeaderAt (r : Vector Byte 58) (p : Pattern) : Prop :=
  fieldAt (stagedByte r 0) 0 4 = p.channels.toNat ∧ fieldAt (stagedByte r 0) 4 2 = p.level.val
    ∧ fieldAt (stagedByte r 1) 0 5 = p.length ∧ stagedByte r 2 = p.tag ∧ stagedByte r 3 = p.gap
    ∧ bitAt (stagedByte r 4) 0 = p.pressOnly ∧ bitAt (stagedByte r 4) 1 = p.swallow
    ∧ fieldAt (stagedByte r 4) 2 3 = p.tail.val ∧ bitAt (stagedByte r 4) 5 = p.lockout
    ∧ bitAt (stagedByte r 4) 6 = p.oneShot ∧ bitAt (stagedByte r 4) 7 = p.clearOnComplete
    ∧ fieldAt (stagedByte r 5) 0 4 = p.threshold.val ∧ fieldAt (stagedByte r 5) 4 3 = actionOutputCode p.actionOutput
    ∧ stagedByte r 6 = p.lockoutTime ∧ fieldAt (stagedByte r 7) 0 2 = actionModeCode p.actionMode

/-- Triple `k` of a staging record shows the fields of `e`. -/
def TripleAt (r : Vector Byte 58) (k : Nat) (e : Element) : Prop :=
  stagedByte r (10 + 3 * k) = e.code ∧ fieldAt (stagedByte r (11 + 3 * k)) 0 2 = elementKindCode e.kind
    ∧ fieldAt (stagedByte r (11 + 3 * k)) 2 2 = extensionTestCode e.extension
    ∧ fieldAt (stagedByte r (11 + 3 * k)) 4 2 = releaseTestCode e.release
    ∧ fieldAt (stagedByte r (12 + 3 * k)) 0 4 = e.width.val

theorem decodeHeader?_iff : decodeHeader? r = some p ↔ HeaderAt r p := by
  obtain ⟨⟩ := p
  have mode : fieldAt (stagedByte r 7) 0 2 < 4 := fieldAt_lt _ _ _
  simp only [decodeHeader?, Option.map_eq_some_iff, HeaderAt, ← actionOutputOf?_iff, Pattern.mk.injEq,
    ofNat_eq_iff (fieldAt_lt _ _ _), actionModeOf_iff mode, Fin.ext_iff]
  constructor
  · rintro ⟨output, code, channels, level, length, tag, gap, pressOnly, swallow, tail, lockout, threshold, time, oneShot,
      clear, rfl, mode⟩
    exact ⟨channels, level, length, tag, gap, pressOnly, swallow, tail, lockout, oneShot, clear, threshold, code, time, mode⟩
  · rintro ⟨channels, level, length, tag, gap, pressOnly, swallow, tail, lockout, oneShot, clear, threshold, code, time, mode⟩
    exact ⟨_, code, channels, level, length, tag, gap, pressOnly, swallow, tail, lockout, threshold, time, oneShot, clear,
      rfl, mode⟩

theorem decodeElement?_iff {k : Nat} : decodeElement? r k = some e ↔ TripleAt r k e := by
  have extension : fieldAt (stagedByte r (11 + 3 * k)) 2 2 < 4 := fieldAt_lt _ _ _
  constructor
  · intro h
    unfold decodeElement? at h
    split at h
    next isKind isRelease =>
      cases h
      exact ⟨rfl, elementKindOf?_iff.mp isKind, (extensionTestOf_iff extension).mp rfl, releaseTestOf?_iff.mp isRelease, rfl⟩
    next => cases h
  · rintro ⟨code, kind, extensionIs, release, width⟩
    rw [decodeElement?, elementKindOf?_iff.mpr kind, releaseTestOf?_iff.mpr release]
    simp only [(extensionTestOf_iff extension).mpr extensionIs, code, width]

theorem decodeElements?_iff {ks : List Nat} :
    decodeElements? r ks = some es ↔ List.Forall₂ (fun k e => TripleAt r k e) ks es := by
  induction ks generalizing es with
  | nil => cases es <;> simp [decodeElements?]
  | cons k ks ih =>
    have each : decodeElements? r (k :: ks) = some es
        ↔ ∃ e rest, decodeElement? r k = some e ∧ decodeElements? r ks = some rest ∧ e :: rest = es := by
      rw [decodeElements?]
      cases decodeElement? r k <;> cases decodeElements? r ks <;> simp
    simp only [each, decodeElement?_iff, ih, List.forall₂_cons_left_iff, eq_comm (a := es)]

theorem decodeElements?_range {n : Nat} :
    decodeElements? r (List.range n) = some es ↔ es.length = n ∧ ∀ k, ∀ e ∈ es[k]?, TripleAt r k e := by
  rw [decodeElements?_iff, List.forall₂_iff_get]
  refine Iff.trans (and_congr_left' (by rw [List.length_range, eq_comm])) ?_
  refine and_congr_right fun long => ⟨fun each k e isThere => ?_, fun each k inRange inList => ?_⟩
  · obtain ⟨inList, rfl⟩ := List.getElem?_eq_some_iff.mp isThere
    simpa using each k (by rw [List.length_range]; omega) inList
  · simpa using each k _ (List.getElem?_eq_getElem inList)

theorem stagedPattern?_some : stagedPattern? r = some (p, es) ↔
    decodeHeader? r = some p ∧ p.valid = true ∧ decodeElements? r (List.range p.length) = some es
      ∧ es.all (Element.validIn p) = true := by
  constructor
  · intro read
    unfold stagedPattern? at read
    split at read
    next => cases read
    next q header =>
      split at read
      next valid =>
        split at read
        next fs elements =>
          split at read
          next all =>
            cases read
            exact ⟨header, valid, elements, all⟩
          next => cases read
        next => cases read
      next => cases read
  · rintro ⟨header, valid, elements, all⟩
    simp only [stagedPattern?, header, valid, elements, all, if_true]

/-! ## Bytes within the record -/

theorem stagedByte_eq (r : Vector Byte 58) {a : Nat} (inRecord : a < 58) : stagedByte r a = r[a] := by
  rw [stagedByte, Vector.getElem?_eq_getElem inRecord, Option.getD_some]

theorem getElem?_eq_stagedByte (r : Vector Byte 58) {a : Nat} (inRecord : a < 58) : r[a]? = some (stagedByte r a) := by
  rw [stagedByte_eq r inRecord, Vector.getElem?_eq_getElem inRecord]

/-- The statement's layout of a triple within the record. -/
theorem tripleAt_iff {k : Nat} (inRecord : k < 16) : TripleAt r k e ↔
    r[10 + 3 * k]? = some e.code
      ∧ (∃ b, r[11 + 3 * k]? = some b ∧ b.toNat % 4 = elementKindCode e.kind
        ∧ b.toNat / 4 % 4 = extensionTestCode e.extension ∧ b.toNat / 16 % 4 = releaseTestCode e.release)
      ∧ ∃ b, r[12 + 3 * k]? = some b ∧ b.toNat % 16 = e.width.val := by
  rw [getElem?_eq_stagedByte r (by omega : 10 + 3 * k < 58), getElem?_eq_stagedByte r (by omega : 11 + 3 * k < 58),
    getElem?_eq_stagedByte r (by omega : 12 + 3 * k < 58)]
  simp [TripleAt, fieldAt, and_assoc]

theorem laysOut_iff (short : p.length ≤ 16) : LaysOut r p es ↔
    HeaderAt r p ∧ es.length = p.length ∧ ∀ k, ∀ e ∈ es[k]?, TripleAt r k e := by
  have triples (long : es.length = p.length) : (∀ k, ∀ e ∈ es[k]?, TripleAt r k e) ↔ ∀ k, ∀ e ∈ es[k]?,
      r[10 + 3 * k]? = some e.code
        ∧ (∃ b, r[11 + 3 * k]? = some b ∧ b.toNat % 4 = elementKindCode e.kind
          ∧ b.toNat / 4 % 4 = extensionTestCode e.extension ∧ b.toNat / 16 % 4 = releaseTestCode e.release)
        ∧ ∃ b, r[12 + 3 * k]? = some b ∧ b.toNat % 16 = e.width.val := by
    refine forall_congr' fun k => forall_congr' fun e => imp_congr_right fun isThere => tripleAt_iff ?_
    obtain ⟨inList, -⟩ := List.getElem?_eq_some_iff.mp isThere
    omega
  rw [and_congr_right_iff.mpr triples]
  simp only [HeaderAt, stagedByte_eq r (by decide : 0 < 58), stagedByte_eq r (by decide : 1 < 58),
    stagedByte_eq r (by decide : 2 < 58), stagedByte_eq r (by decide : 3 < 58), stagedByte_eq r (by decide : 4 < 58),
    stagedByte_eq r (by decide : 5 < 58), stagedByte_eq r (by decide : 6 < 58), stagedByte_eq r (by decide : 7 < 58),
    fieldAt, bitAt, Nat.pow_zero, Nat.div_one, Nat.reducePow, and_assoc]
  rfl

/-! ## The record that READ_BACK leaves (R160) -/

theorem stagedByte_encodeRecord {start a : Nat} (inRecord : a < 58) :
    stagedByte (encodeRecord p start es) a = ((headerBytes p start ++ es.flatMap elementBytes)[a]?).getD 0 := by
  rw [stagedByte_eq _ inRecord, encodeRecord, Vector.getElem_ofFn]

theorem stagedByte_header {start a : Nat} (inHeader : a < 10) :
    stagedByte (encodeRecord p start es) a = ((headerBytes p start)[a]?).getD 0 := by
  rw [stagedByte_encodeRecord (by omega), List.getElem?_append_left (by simpa [headerBytes] using inHeader)]

theorem stagedByte_triples {start a : Nat} (inRecord : a < 48) :
    stagedByte (encodeRecord p start es) (10 + a) = ((es.flatMap elementBytes)[a]?).getD 0 := by
  rw [stagedByte_encodeRecord (by omega), List.getElem?_append_right (by simp [headerBytes])]
  simp [headerBytes]

/-- The triples stand one after another. -/
theorem getElem?_flatMap_elementBytes {k j : Nat} (inTriple : j < 3) :
    (es.flatMap elementBytes)[3 * k + j]? = es[k]?.bind fun e => (elementBytes e)[j]? := by
  induction es generalizing k with
  | nil => rfl
  | cons e es ih =>
    rw [List.flatMap_cons]
    cases k with
    | zero =>
      rw [List.getElem?_append_left (by simpa [elementBytes] using inTriple)]
      simp
    | succ k =>
      rw [List.getElem?_append_right (by simp [elementBytes]; omega), List.getElem?_cons_succ, ← ih]
      congr 1
      simp [elementBytes]
      omega

theorem length_flatMap_elementBytes (es : List Element) : (es.flatMap elementBytes).length = 3 * es.length := by
  simp [elementBytes, mul_comm]

theorem encodeRecord_bytes {start k : Nat} (inRecord : k < 16) (isThere : es[k]? = some e) :
    stagedByte (encodeRecord p start es) (10 + 3 * k) = e.code
      ∧ (stagedByte (encodeRecord p start es) (11 + 3 * k)).toNat
        = elementKindCode e.kind + 4 * extensionTestCode e.extension + 16 * releaseTestCode e.release
      ∧ (stagedByte (encodeRecord p start es) (12 + 3 * k)).toNat = e.width.val := by
  have shown {j : Nat} (inTriple : j < 3) :
      stagedByte (encodeRecord p start es) (10 + (3 * k + j)) = ((elementBytes e)[j]?).getD 0 := by
    rw [stagedByte_triples (by omega), getElem?_flatMap_elementBytes inTriple, isThere]
    rfl
  have kind := elementKindCode_lt e.kind
  have extension := extensionTestCode_lt e.extension
  have release := releaseTestCode_lt e.release
  rw [show 11 + 3 * k = 10 + (3 * k + 1) by omega, show 12 + 3 * k = 10 + (3 * k + 2) by omega]
  refine ⟨shown (j := 0) (by decide), ?_, ?_⟩
  · rw [shown (j := 1) (by decide)]
    exact byteOf_toNat (by omega)
  · rw [shown (j := 2) (by decide)]
    exact byteOf_val e.width (by decide)

theorem encodeRecord_triple {start k : Nat} (inRecord : k < 16) (isThere : es[k]? = some e) :
    TripleAt (encodeRecord p start es) k e := by
  have kind := elementKindCode_lt e.kind
  have extension := extensionTestCode_lt e.extension
  have release := releaseTestCode_lt e.release
  have wide := e.width.isLt
  obtain ⟨code, codes, width⟩ := encodeRecord_bytes (p := p) (start := start) inRecord isThere
  simp only [TripleAt, fieldAt, code, codes, width]
  refine ⟨trivial, ?_, ?_, ?_, ?_⟩ <;> omega

theorem encodeRecord_header (start : Nat) (short : p.length ≤ 16) : HeaderAt (encodeRecord p start es) p := by
  have channels := p.channels.isLt
  have level := p.level.isLt
  have tail := p.tail.isLt
  have threshold := p.threshold.isLt
  have output := actionOutputCode_lt p.actionOutput
  have mode := actionModeCode_lt p.actionMode
  have press := p.pressOnly.toNat_lt
  have swallows := p.swallow.toNat_lt
  have locks := p.lockout.toNat_lt
  have once := p.oneShot.toNat_lt
  have clears := p.clearOnComplete.toNat_lt
  have flags := byteOf_toNat (n := p.pressOnly.toNat + 2 * p.swallow.toNat + 4 * p.tail.val + 32 * p.lockout.toNat
    + 64 * p.oneShot.toNat + 128 * p.clearOnComplete.toNat) (by omega)
  simp only [HeaderAt, stagedByte_header (by decide : 0 < 10), stagedByte_header (by decide : 1 < 10),
    stagedByte_header (by decide : 2 < 10), stagedByte_header (by decide : 3 < 10), stagedByte_header (by decide : 4 < 10),
    stagedByte_header (by decide : 5 < 10), stagedByte_header (by decide : 6 < 10), stagedByte_header (by decide : 7 < 10),
    headerBytes, List.getElem?_cons_zero, List.getElem?_cons_succ, Option.getD_some, flagBit_eq, bitAt, fieldAt,
    Nat.reducePow, one_mul, Nat.div_one]
  rw [byteOf_toNat (by omega), byteOf_toNat (by omega), byteOf_toNat (by omega), byteOf_toNat (by omega), byteOf_toNat (by omega)]
  refine ⟨by omega, by omega, by omega, trivial, trivial, getLsbD_of_bit (by omega), getLsbD_of_bit (by omega), by omega,
    getLsbD_of_bit (by omega), getLsbD_of_bit (by omega), getLsbD_of_bit (by omega), by omega, by omega, trivial, by omega⟩

theorem encodeRecord_beyond {start a : Nat} (beyond : 10 + 3 * es.length ≤ a) (inRecord : a < 58) :
    stagedByte (encodeRecord p start es) a = 0 := by
  obtain ⟨b, rfl⟩ := Nat.exists_eq_add_of_le (by omega : 10 ≤ a)
  rw [stagedByte_triples (by omega), List.getElem?_eq_none (by rw [length_flatMap_elementBytes]; omega)]
  rfl

theorem encodeRecord_laysOut (short : p.length ≤ 16) (long : es.length = p.length) (start : Nat) :
    LaysOut (encodeRecord p start es) p es := by
  refine (laysOut_iff short).mpr ⟨encodeRecord_header start short, long, fun k e isThere => ?_⟩
  obtain ⟨inList, -⟩ := List.getElem?_eq_some_iff.mp isThere
  exact encodeRecord_triple (by omega) isThere

/-- R38, R201: what DEFINE reads. -/
theorem stagedPattern?_iff : stagedPattern? r = some (p, es) ↔
    LaysOut r p es ∧ HeaderValid p ∧ ∀ e ∈ es, ElementValid p e := by
  rw [stagedPattern?_some, decodeHeader?_iff, decodeElements?_range, valid_iff, List.all_eq_true]
  simp only [validIn_iff]
  constructor
  · rintro ⟨header, valid, elements, all⟩
    exact ⟨(laysOut_iff valid.2.1).mpr ⟨header, elements⟩, valid, all⟩
  · rintro ⟨laid, valid, all⟩
    obtain ⟨header, elements⟩ := (laysOut_iff valid.2.1).mp laid
    exact ⟨header, valid, elements, all⟩

/-- R201: the start stands in bytes 8 and 9, and the unused bits of the header are 0. -/
theorem encodeRecord_unused {start : Nat} (short : p.length ≤ 16) (inPool : start < 512) :
    let r := encodeRecord p start es
    r[8].toNat + 256 * r[9].toNat = start ∧ r[0].toNat < 64 ∧ r[1].toNat < 32 ∧ r[5].toNat < 128 ∧ r[7].toNat < 4 := by
  have channels := p.channels.isLt
  have level := p.level.isLt
  have threshold := p.threshold.isLt
  have output := actionOutputCode_lt p.actionOutput
  have mode := actionModeCode_lt p.actionMode
  simp only [← stagedByte_eq, stagedByte_header (by decide : 0 < 10), stagedByte_header (by decide : 1 < 10),
    stagedByte_header (by decide : 5 < 10), stagedByte_header (by decide : 7 < 10), stagedByte_header (by decide : 8 < 10),
    stagedByte_header (by decide : 9 < 10), headerBytes, List.getElem?_cons_zero, List.getElem?_cons_succ,
    Option.getD_some]
  rw [show (byteOf start).toNat = start % 256 from BitVec.toNat_ofNat start 8, byteOf_toNat (by omega),
    byteOf_toNat (by omega), byteOf_toNat (by omega), byteOf_toNat (by omega), byteOf_toNat (by omega)]
  omega

/-- R201: the unused bits of a triple are 0. -/
theorem encodeRecord_unused_triple {start k : Nat} (inRecord : k < 16) (isThere : es[k]? = some e) :
    (stagedByte (encodeRecord p start es) (11 + 3 * k)).toNat < 64
      ∧ (stagedByte (encodeRecord p start es) (12 + 3 * k)).toNat < 16 := by
  have kind := elementKindCode_lt e.kind
  have extension := extensionTestCode_lt e.extension
  have release := releaseTestCode_lt e.release
  have wide := e.width.isLt
  obtain ⟨-, codes, width⟩ := encodeRecord_bytes (p := p) (start := start) inRecord isThere
  omega

/-- Settles O42. -/
theorem readBackRoundTrip : Obligations.ReadBackRoundTrip := by
  refine ⟨fun p e => ⟨valid_iff p, validIn_iff p e⟩, fun r p es => stagedPattern?_iff, ?_⟩
  intro p es start valid long all inPool r
  have short := valid.2.1
  have laid : LaysOut r p es := encodeRecord_laysOut short long start
  obtain ⟨starts, channels, lengths, output, mode⟩ := encodeRecord_unused (es := es) short inPool
  refine ⟨stagedPattern?_iff.mpr ⟨laid, valid, all⟩, laid, starts, channels, lengths, output, mode, fun k inside => ?_,
    fun a beyond => ?_⟩
  · obtain ⟨e, isThere⟩ : ∃ e, es[k]? = some e := ⟨_, List.getElem?_eq_getElem (long ▸ inside)⟩
    obtain ⟨codes, width⟩ := encodeRecord_unused_triple (p := p) (start := start) (by omega) isThere
    exact ⟨⟨_, getElem?_eq_stagedByte _ (by omega), codes⟩, _, getElem?_eq_stagedByte _ (by omega), width⟩
  · exact (stagedByte_eq _ a.isLt).symm.trans (encodeRecord_beyond (by omega) a.isLt)

end Sys2Proof.Machine

/-! The pass at which candidates and patterns of length 1 complete (sections 3.8, 3.9, 5.4, 5.5, 7.2; O26). -/

namespace Sys2Proof.Machine

-- One after another these proofs need fewer threads than the whole text would otherwise hold at once.
set_option Elab.async false

variable {s t : State} {ch : Channel} {x : Symbol} {n : PatternNum} {r : Stored}

/-! ## Completions with their patterns -/

/-- A completion with the fields of its pattern: pattern number, birth, fields. -/
abbrev Done := PatternNum × ArrivalNum × Pattern

/-- The model's form of a completion, whose fields stand in the slot. -/
def Done.completion (d : Done) : Completion := ⟨d.1, d.2.1⟩

/-- The slot of a completion holds its pattern's fields. -/
def State.Holds (s : State) (d : Done) : Prop := ∃ r, (s.slot d.1).record? = some r ∧ r.pattern = d.2.2

theorem State.Holds.congr {d : Done} (holds : s.Holds d) (slot : (t.slot d.1).record? = (s.slot d.1).record?) : t.Holds d := by
  rwa [State.Holds, slot]

variable {d : Done} {done : List Done}

/-! ## MATCH events (R61) -/

/-- The MATCH event of a completion that takes a seq. -/
def Done.event (ch : Channel) (x : Symbol) (d : Done) (seq : Byte) : EventRecord :=
  ⟨seq, .matched, d.2.2.level, some ch, some d.1, some d.2.2.tag, BitVec.ofNat 16 x.stamp⟩

theorem offerMatch_holds (holds : s.Holds d) :
    s.offerMatch ch x d.completion = s.createEvent d.2.2.level ⟨.matched, some ch, some d.1, some d.2.2.tag, x.stamp⟩ := by
  obtain ⟨r, stored, fields⟩ := holds
  simp only [State.offerMatch, Done.completion, stored, fields]

theorem offerMatches_events (holds : ∀ d ∈ done, s.Holds d) (room : s.eventQueue.length + done.length ≤ 32) :
    (forEach (done.map Done.completion) (fun t d => t.offerMatch ch x d) s).eventQueue =
        s.eventQueue ++ done.mapIdx (fun k d => d.event ch x (s.eventSeq + BitVec.ofNat 8 k))
      ∧ (forEach (done.map Done.completion) (fun t d => t.offerMatch ch x d) s).eventSeq
        = s.eventSeq + BitVec.ofNat 8 done.length
      ∧ (forEach (done.map Done.completion) (fun t d => t.offerMatch ch x d) s).lostMask = s.lostMask := by
  induction done generalizing s with
  | nil => exact ⟨(List.append_nil _).symm, (BitVec.add_zero _).symm, rfl⟩
  | cons d done ih =>
    rw [List.length_cons] at room
    obtain ⟨queue, seq, lost⟩ := createEvent_room (l := d.2.2.level)
      (o := ⟨.matched, some ch, some d.1, some d.2.2.tag, x.stamp⟩) (by omega : s.eventQueue.length < 32)
    rw [← offerMatch_holds (holds d List.mem_cons_self)] at queue seq lost
    obtain ⟨queues, seqs, losts⟩ := ih (s := s.offerMatch ch x d.completion)
      (fun e he => (holds e (List.mem_cons_of_mem d he)).congr (by rw [slot_offerMatch]))
      (by rw [queue, List.length_append, List.length_singleton]; omega)
    have later (k : Nat) : s.eventSeq + 1 + BitVec.ofNat 8 k = s.eventSeq + BitVec.ofNat 8 (k + 1) := by
      rw [BitVec.ofNat_add, add_assoc, add_comm (BitVec.ofNat 8 k)]
      rfl
    simp only [queue, seq, lost, later, List.append_assoc] at queues seqs losts
    refine ⟨queues.trans ?_, seqs, losts⟩
    rw [List.mapIdx_cons]
    simp only [BitVec.add_zero, List.singleton_append]
    rfl

/-! ## Actions (R140–R142) -/

/-- What a completion of a pattern makes of the output `o`. -/
def Output.completed (o : OutputNum) (now : Time) (y : Output) (p : Pattern) : Output :=
  if p.actionOutput = some o then y.act p.actionMode now else y

theorem output_applyBatch (batch : List (OutputNum × ActionMode)) (s : State) (o : OutputNum) :
    (s.applyBatch batch).output o =
      batch.foldl (fun y a => if a.1 = o then y.act a.2 s.timeBase else y) (s.output o) := by
  induction batch generalizing s with
  | nil => rfl
  | cons a batch ih =>
    have first : (s.modOutput a.1 fun y => y.act a.2 s.timeBase).output o =
        if a.1 = o then (s.output o).act a.2 s.timeBase else s.output o := by
      rw [output_modOutput]
      by_cases same : o = a.1
      · subst same
        simp
      · rw [if_neg same, if_neg (Ne.symm same)]
    rw [List.foldl_cons, ← first]
    exact ih _

theorem actionOf?_holds (holds : s.Holds d) :
    s.actionOf? d.completion = d.2.2.actionOutput.map fun o => (o, d.2.2.actionMode) := by
  obtain ⟨r, stored, fields⟩ := holds
  simp only [State.actionOf?, Done.completion, stored, fields]

/-- R61: the batch of the completions acts on each output in their order. -/
theorem output_actions (holds : ∀ d ∈ done, s.Holds d) (u : State) (o : OutputNum) :
    (u.applyBatch ((done.map Done.completion).filterMap s.actionOf?)).output o =
      done.foldl (fun y d => y.completed o u.timeBase d.2.2) (u.output o) := by
  rw [output_applyBatch, List.filterMap_map, List.foldl_filterMap]
  refine List.foldl_ext _ _ _ fun y d hd => ?_
  rw [Function.comp_apply, actionOf?_holds (holds d hd), Output.completed]
  cases d.2.2.actionOutput <;> simp

/-! ## ONE_SHOT patterns (R62) -/

theorem disarm_record? (sl : Slot) : sl.disarm.record? = sl.record? := by
  cases sl <;> rfl

theorem slot_leaveArmed (s : State) (n m : PatternNum) :
    (s.leaveArmed n).slot m = if m = n then (s.slot n).disarm else s.slot m := by
  rw [leaveArmed_eq]
  exact slot_setSlot s n m _

theorem leaveArmed_chan (s : State) (n : PatternNum) (j : Channel) :
    (s.leaveArmed n).chan j =
      { s.chan j with
        candidates := (s.chan j).candidates.filter fun c => c.pattern ≠ n
        lockouts := (s.chan j).lockouts.filter fun l => l.pattern ≠ n } := by
  rw [leaveArmed_eq, chan_mk_ofFn]

theorem disarmOneShot_holds (holds : s.Holds d) :
    s.disarmOneShot d.completion = if d.2.2.oneShot then s.leaveArmed d.1 else s := by
  obtain ⟨r, stored, fields⟩ := holds
  simp only [State.disarmOneShot, Done.completion, stored, fields]

theorem slot_disarmOneShot (holds : s.Holds d) (m : PatternNum) :
    (s.disarmOneShot d.completion).slot m = if d.1 = m ∧ d.2.2.oneShot = true then (s.slot m).disarm else s.slot m := by
  rw [disarmOneShot_holds holds]
  by_cases once : d.2.2.oneShot = true
  · rw [if_pos once, slot_leaveArmed]
    by_cases same : m = d.1
    · rw [if_pos same, if_pos ⟨same.symm, once⟩, same]
    · rw [if_neg same, if_neg fun h => same h.1.symm]
  · rw [if_neg once, if_neg fun h => once h.2]

theorem disarmOneShot_record? (holds : s.Holds d) (m : PatternNum) :
    ((s.disarmOneShot d.completion).slot m).record? = (s.slot m).record? := by
  rw [slot_disarmOneShot holds]
  split
  · exact disarm_record? _
  · rfl

/-- The disarms of a list of completions. -/
def State.disarms (s : State) (done : List Done) : State := forEach (done.map Done.completion) State.disarmOneShot s

theorem disarms_cons (s : State) (d : Done) (done : List Done) :
    s.disarms (d :: done) = (s.disarmOneShot d.completion).disarms done := rfl

theorem holds_after (holds : ∀ e ∈ d :: done, s.Holds e) : ∀ e ∈ done, (s.disarmOneShot d.completion).Holds e :=
  fun e he => (holds e (List.mem_cons_of_mem d he)).congr (disarmOneShot_record? (holds d List.mem_cons_self) e.1)

theorem slot_disarms (holds : ∀ d ∈ done, s.Holds d) (m : PatternNum) :
    (s.disarms done).slot m =
      if ∃ d ∈ done, d.1 = m ∧ d.2.2.oneShot = true then (s.slot m).disarm else s.slot m := by
  induction done generalizing s with
  | nil => simp [State.disarms, forEach]
  | cons d done ih =>
    rw [disarms_cons, ih (holds_after holds), slot_disarmOneShot (holds d List.mem_cons_self)]
    simp only [List.mem_cons, or_and_right, exists_or, exists_eq_left]
    have twice : (s.slot m).disarm.disarm = (s.slot m).disarm := by cases s.slot m <;> rfl
    by_cases here : d.1 = m ∧ d.2.2.oneShot = true
    · rw [if_pos here, twice, ite_self, if_pos (Or.inl here)]
    · simp only [here, if_false, false_or]

theorem disarmOneShot_cases (s : State) (d : Completion) :
    s.disarmOneShot d = s.leaveArmed d.pattern ∨ s.disarmOneShot d = s := by
  unfold State.disarmOneShot
  split
  · split
    · exact .inl rfl
    · exact .inr rfl
  · exact .inr rfl

/-- R23: a channel that patterns left keeps the rest, and no candidate is new. -/
theorem disarms_chan (s : State) (done : List Done) (j : Channel) :
    ∃ cs ls, (s.disarms done).chan j = { s.chan j with candidates := cs, lockouts := ls }
      ∧ cs.Sublist (s.chan j).candidates := by
  refine forEach_invariant (P := fun t => ∃ cs ls, t.chan j = { s.chan j with candidates := cs, lockouts := ls }
    ∧ cs.Sublist (s.chan j).candidates) _ (fun t d _ before => ?_) s ⟨_, _, rfl, .refl _⟩
  rcases disarmOneShot_cases t d with left | same
  · obtain ⟨cs, ls, chan, fewer⟩ := before
    rw [left, leaveArmed_chan, chan]
    exact ⟨_, _, rfl, List.filter_sublist.trans fewer⟩
  · rwa [same]

/-- R62: a ONE_SHOT pattern that completed keeps no candidate. -/
theorem disarms_cancels (holds : ∀ d ∈ done, s.Holds d) (isDone : d ∈ done) (once : d.2.2.oneShot = true) (j : Channel) :
    ∀ c ∈ ((s.disarms done).chan j).candidates, c.pattern ≠ d.1 := by
  induction done generalizing s with
  | nil => cases isDone
  | cons e done ih =>
    rw [disarms_cons]
    rcases List.mem_cons.mp isDone with rfl | later
    · obtain ⟨cs, ls, chan, fewer⟩ := disarms_chan (s.disarmOneShot d.completion) done j
      intro c hc
      rw [chan] at hc
      have left := fewer.subset hc
      rw [disarmOneShot_holds (holds d List.mem_cons_self), if_pos once, leaveArmed_chan] at left
      simpa using (List.mem_filter.mp left).2
    · exact ih (holds_after holds) later

/-! ## Phase 5 (R61–R63) -/

/-- What phase 5 makes of a state, the completions being `done`. -/
structure CompletionsTaken (ch : Channel) (x : Symbol) (done : List Done) (s t : State) : Prop where
  eventQueue : t.eventQueue = s.eventQueue ++ done.mapIdx fun k d => d.event ch x (s.eventSeq + BitVec.ofNat 8 k)
  eventSeq : t.eventSeq = s.eventSeq + BitVec.ofNat 8 done.length
  lostMask : t.lostMask = s.lostMask
  output : ∀ o, t.output o = done.foldl (fun y d => y.completed o s.timeBase d.2.2) (s.output o)
  slot : ∀ m, t.slot m = if ∃ d ∈ done, d.1 = m ∧ d.2.2.oneShot = true then (s.slot m).disarm else s.slot m
  cancelled : ∀ d ∈ done, d.2.2.oneShot = true → ∀ j, ∀ c ∈ (t.chan j).candidates, c.pattern ≠ d.1
  chan : ∃ cs ls, t.chan ch = { s.chan ch with candidates := cs, lockouts := ls } ∧ cs.Sublist (s.chan ch).candidates

theorem clears_holds (holds : s.Holds d) : s.clears d.completion = d.2.2.clearOnComplete := by
  obtain ⟨r, stored, fields⟩ := holds
  simp only [State.clears, Done.completion, stored, fields]

/-- Clearing the candidates of the channel served keeps what phase 5 did before it. -/
theorem CompletionsTaken.clear (taken : CompletionsTaken ch x done s t) :
    CompletionsTaken ch x done s (t.modChan ch fun c => { c with candidates := [] }) := by
  obtain ⟨queue, seq, lost, output, slot, cancelled, cs, ls, chan, fewer⟩ := taken
  refine ⟨queue, seq, lost, output, slot, fun d hd once j => ?_, [], ls, ?_, List.nil_sublist _⟩
  · rw [chan_modChan]
    split
    · exact nofun
    · exact cancelled d hd once j
  · rw [chan_modChan_same, chan]

theorem passCompletions_eq (holds : ∀ d ∈ done, s.Holds d) : s.passCompletions ch x (done.map Done.completion) =
    let t := State.disarms ((forEach (done.map Done.completion) (fun t d => t.offerMatch ch x d) s).applyBatch
      ((done.map Done.completion).filterMap s.actionOf?)) done
    if ∃ d ∈ done, d.2.2.clearOnComplete = true then t.modChan ch fun c => { c with candidates := [] } else t := by
  have clearing : (done.map Done.completion).any s.clears = true ↔ ∃ d ∈ done, d.2.2.clearOnComplete = true := by
    rw [List.any_map, List.any_eq_true]
    exact exists_congr fun d => and_congr_right fun hd => by rw [Function.comp_apply, clears_holds (holds d hd)]
  simp only [State.passCompletions, clearing]
  rfl

theorem disarms_keeps (s : State) (done : List Done) : Keeps { chans := true, slots := true } s (s.disarms done) :=
  .forEach (fun t d => disarmOneShot_keeps t d) _ s

/-- Phase 5 up to the clearing. -/
theorem disarms_takes (holds : ∀ d ∈ done, s.Holds d) (room : s.eventQueue.length + done.length ≤ 32) :
    CompletionsTaken ch x done s
      (State.disarms ((forEach (done.map Done.completion) (fun t d => t.offerMatch ch x d) s).applyBatch
        ((done.map Done.completion).filterMap s.actionOf?)) done) := by
  set offered := forEach (done.map Done.completion) (fun t d => t.offerMatch ch x d) s
  set acted := offered.applyBatch ((done.map Done.completion).filterMap s.actionOf?)
  obtain ⟨queue, seq, lost⟩ := offerMatches_events (ch := ch) (x := x) holds room
  have offers : Keeps { events := true } s offered := .forEach (fun t d => offerMatch_keeps t ch x d) _ s
  have acts : Keeps { outputs := true } offered acted := applyBatch_keeps _ _
  have disarms : Keeps { chans := true, slots := true } acted (acted.disarms done) := disarms_keeps _ _
  have actedSlot (m : PatternNum) : acted.slot m = s.slot m := by
    rw [State.slot, acts.slots rfl, offers.slots rfl, State.slot]
  have actedChan (j : Channel) : acted.chan j = s.chan j := by
    rw [State.chan, acts.chans rfl, offers.chans rfl, State.chan]
  have actedHolds : ∀ d ∈ done, acted.Holds d := fun d hd => (holds d hd).congr (by rw [actedSlot])
  refine ⟨?_, ?_, ?_, fun o => ?_, fun m => ?_, fun d hd once j => disarms_cancels actedHolds hd once j, ?_⟩
  · rw [disarms.eventQueue rfl, acts.eventQueue rfl, queue]
  · rw [disarms.eventSeq rfl, acts.eventSeq rfl, seq]
  · rw [disarms.lostMask rfl, acts.lostMask rfl, lost]
  · rw [State.output, disarms.outputs rfl, ← State.output, output_actions holds, offers.timeBase, State.output,
      offers.outputs rfl, State.output]
  · rw [slot_disarms actedHolds, actedSlot]
  · rw [← actedChan]
    exact disarms_chan acted done ch

theorem passCompletions_takes (holds : ∀ d ∈ done, s.Holds d) (room : s.eventQueue.length + done.length ≤ 32) :
    CompletionsTaken ch x done s (s.passCompletions ch x (done.map Done.completion)) := by
  have taken := disarms_takes (ch := ch) (x := x) holds room
  rw [passCompletions_eq holds]
  dsimp only
  split
  · exact taken.clear
  · exact taken

/-- R63: clear on complete of one completion ends every candidate of the channel. -/
theorem passCompletions_clears (holds : ∀ d ∈ done, s.Holds d) (clears : ∃ d ∈ done, d.2.2.clearOnComplete = true) :
    ((s.passCompletions ch x (done.map Done.completion)).chan ch).candidates = [] := by
  rw [passCompletions_eq holds]
  dsimp only
  rw [if_pos clears, chan_modChan_same]

/-! ## What becomes of the symbol (R64, R65, R97, R99) -/

/-- A running maximum is no less than its start and the values, and is one of them. -/
theorem foldl_max_spec {α : Type} (f : α → Nat) (l : List α) (m : Nat) :
    m ≤ l.foldl (fun m a => max m (f a)) m ∧ (∀ a ∈ l, f a ≤ l.foldl (fun m a => max m (f a)) m)
      ∧ (l.foldl (fun m a => max m (f a)) m = m ∨ ∃ a ∈ l, f a = l.foldl (fun m a => max m (f a)) m) := by
  induction l generalizing m with
  | nil => exact ⟨le_rfl, nofun, .inl rfl⟩
  | cons a l ih =>
    obtain ⟨start, all, reached⟩ := ih (max m (f a))
    rw [List.foldl_cons]
    refine ⟨(le_max_left _ _).trans start, List.forall_mem_cons.mpr ⟨(le_max_right _ _).trans start, all⟩, ?_⟩
    rcases reached with same | ⟨b, hb, eq⟩
    · rw [same]
      rcases max_choice m (f a) with left | right
      · exact .inl left
      · exact .inr ⟨a, List.mem_cons_self, right.symm⟩
    · exact .inr ⟨b, List.mem_cons_of_mem a hb, eq⟩

/-- The running maximum from 0 of the values of a list that is not empty. -/
theorem foldl_max_zero {α : Type} (f : α → Nat) {l : List α} {a : α} (ha : a ∈ l) :
    (∀ b ∈ l, f b ≤ l.foldl (fun m b => max m (f b)) 0) ∧ ∃ b ∈ l, f b = l.foldl (fun m b => max m (f b)) 0 := by
  obtain ⟨-, all, zero | reached⟩ := foldl_max_spec f l 0
  · exact ⟨all, a, ha, Nat.le_antisymm (all a ha) (zero.trans_le (Nat.zero_le _))⟩
  · exact ⟨all, reached⟩

/-- The disposition of a symbol that some completion swallows: their smallest birth and their greatest tail. -/
structure SwallowedFrom (done : List Done) (birth : ArrivalNum) (tail : Nat) : Prop where
  born : ∃ d ∈ done, d.2.2.swallow = true ∧ d.2.1 = birth
  first : ∀ d ∈ done, d.2.2.swallow = true → birth ≤ d.2.1
  tailed : ∃ d ∈ done, d.2.2.swallow = true ∧ d.2.2.tail.val = tail
  longest : ∀ d ∈ done, d.2.2.swallow = true → d.2.2.tail.val ≤ tail

theorem swallows_holds (holds : s.Holds d) : s.swallows d.completion.pattern = d.2.2.swallow := by
  obtain ⟨r, stored, fields⟩ := holds
  rw [← fields]
  exact swallows_eq stored

theorem tailOf_holds (holds : s.Holds d) : s.tailOf d.completion = d.2.2.tail.val := by
  obtain ⟨r, stored, fields⟩ := holds
  simp only [State.tailOf, Done.completion, stored, fields]

theorem filter_swallows (holds : ∀ d ∈ done, s.Holds d) :
    (done.map Done.completion).filter (fun d => s.swallows d.pattern) =
      (done.filter (fun d => d.2.2.swallow)).map Done.completion := by
  rw [List.filter_map]
  exact congrArg (List.map _) (List.filter_congr fun d hd => swallows_holds (holds d hd))

theorem disposition_swallowed (holds : ∀ d ∈ done, s.Holds d) (swallows : ∃ d ∈ done, d.2.2.swallow = true) :
    ∃ birth tail, s.disposition ch (done.map Done.completion) = .swallowed birth tail ∧ SwallowedFrom done birth tail := by
  have mem (d : Done) : d ∈ done.filter (fun d => d.2.2.swallow) ↔ d ∈ done ∧ d.2.2.swallow = true := List.mem_filter
  have dispositions : s.disposition ch (done.map Done.completion) =
      match ((done.filter (fun d => d.2.2.swallow)).map (·.2.1)).min? with
      | some b => .swallowed b ((done.filter (fun d => d.2.2.swallow)).foldl (fun m d => max m d.2.2.tail.val) 0)
      | none => if (s.boundary ch).isSome then .held else .free := by
    rw [State.disposition, filter_swallows holds, List.map_map, List.foldl_map,
      List.foldl_ext _ (fun m d => max m d.2.2.tail.val) 0 fun m d hd => by rw [tailOf_holds (holds d ((mem d).mp hd).1)]]
    rfl
  obtain ⟨d, isDone, swallows⟩ := swallows
  have isSwallowing := (mem d).mpr ⟨isDone, swallows⟩
  obtain ⟨birth, least⟩ : ∃ birth, ((done.filter (fun d => d.2.2.swallow)).map (·.2.1)).min? = some birth :=
    Option.isSome_iff_exists.mp (List.isSome_min?_of_mem (List.mem_map_of_mem isSwallowing))
  obtain ⟨among, smallest⟩ := List.min?_eq_some_iff.mp least
  obtain ⟨e, he, born⟩ := List.mem_map.mp among
  obtain ⟨all, g, hg, tailed⟩ := foldl_max_zero (fun d : Done => d.2.2.tail.val) isSwallowing
  rw [least] at dispositions
  exact ⟨birth, _, dispositions, ⟨e, ((mem e).mp he).1, ((mem e).mp he).2, born⟩,
    fun d hd swallows => smallest _ (List.mem_map_of_mem ((mem d).mpr ⟨hd, swallows⟩)),
    ⟨g, ((mem g).mp hg).1, ((mem g).mp hg).2, tailed⟩, fun d hd swallows => all d ((mem d).mpr ⟨hd, swallows⟩)⟩

theorem disposition_stored (holds : ∀ d ∈ done, s.Holds d) (loose : ∀ d ∈ done, d.2.2.swallow = false) :
    s.handOn ch x (s.disposition ch (done.map Done.completion)) = s.deliver ch x := by
  have none : done.filter (fun d => d.2.2.swallow) = [] := List.filter_eq_nil_iff.mpr fun d hd => by simp [loose d hd]
  rw [State.disposition, filter_swallows holds, none]
  exact handOn_stored

/-- The queue and the tail record that the disposition of the symbol leaves of a channel without a tail record. -/
structure Disposed (c : Chan) (x : Symbol) (done : List Done) (queue : List Symbol) (tail : Option Tail) : Prop where
  swallowed : ∀ birth, (∃ d ∈ done, d.2.2.swallow = true ∧ d.2.1 = birth) →
    (∀ d ∈ done, d.2.2.swallow = true → birth ≤ d.2.1) → queue = c.queue.filter fun e => e.arrival < birth
  tailed : ∀ k : Fin 8, (∃ d ∈ done, d.2.2.swallow = true ∧ d.2.2.tail = k) →
    (∀ d ∈ done, d.2.2.swallow = true → d.2.2.tail ≤ k) →
    tail = if k = 0 then none else some ⟨k.val, tailExpiry? c.tailWindow x.stamp⟩
  stored : (∀ d ∈ done, d.2.2.swallow = false) → queue = c.queue ++ [x] ∧ tail = none

theorem SwallowedFrom.disposed {birth : ArrivalNum} {k : Nat} (swallowed : SwallowedFrom done birth k) (c : Chan) (x : Symbol) :
    Disposed c x done (c.queue.filter fun e => e.arrival < birth)
      (if k = 0 then none else some ⟨k, tailExpiry? c.tailWindow x.stamp⟩) := by
  obtain ⟨⟨d, hd, dSwallows, born⟩, first, ⟨e, he, eSwallows, tailed⟩, longest⟩ := swallowed
  refine ⟨?_, ?_, fun loose => absurd dSwallows (by simp [loose d hd])⟩
  · rintro b ⟨f, hf, fSwallows, rfl⟩ least
    rw [Nat.le_antisymm (born ▸ least d hd dSwallows) (first f hf fSwallows)]
  · rintro j ⟨f, hf, fSwallows, rfl⟩ greatest
    have same : k = f.2.2.tail.val :=
      Nat.le_antisymm (tailed ▸ Fin.le_def.mp (greatest e he eSwallows)) (longest f hf fSwallows)
    rw [same]
    exact if_congr Fin.val_eq_zero_iff rfl rfl

theorem handOn_disposes (holds : ∀ d ∈ done, s.Holds d) (room : (s.chan ch).queue.length < 32)
    (untailed : (s.chan ch).tail = none)
    (loose : (∃ d ∈ done, d.2.2.swallow = true) ∨ ∀ c ∈ (s.chan ch).candidates, s.swallowing c = false) :
    ∃ queue tail, s.handOn ch x (s.disposition ch (done.map Done.completion)) =
        s.modChan ch (fun c => { c with queue := queue, tail := tail })
      ∧ Disposed (s.chan ch) x done queue tail := by
  by_cases swallows : ∃ d ∈ done, d.2.2.swallow = true
  · obtain ⟨birth, k, disposition, swallowed⟩ := disposition_swallowed (ch := ch) holds swallows
    refine ⟨_, _, ?_, swallowed.disposed _ x⟩
    rw [disposition, State.handOn, State.swallow]
    exact modChan_congr (by rw [untailed])
  · have stored : ∀ d ∈ done, d.2.2.swallow = false := fun d hd => by
      rw [← Bool.not_eq_true]
      exact fun swallow => swallows ⟨d, hd, swallow⟩
    refine ⟨(s.chan ch).queue ++ [x], none, ?_, ?_, ?_, fun _ => ⟨rfl, rfl⟩⟩
    · rw [disposition_stored holds stored, deliver_free room untailed (loose.resolve_left swallows)]
      exact modChan_congr (by rw [untailed])
    · rintro birth ⟨d, hd, swallow, -⟩
      exact absurd ⟨d, hd, swallow⟩ swallows
    · rintro k ⟨d, hd, swallow, -⟩
      exact absurd ⟨d, hd, swallow⟩ swallows

/-! ## The phases together -/

theorem CompletionsTaken.record? (taken : CompletionsTaken ch x done s t) (m : PatternNum) :
    (t.slot m).record? = (s.slot m).record? := by
  rw [taken.slot]
  split
  · exact disarm_record? _
  · rfl

/-- What a pass with completions leaves, `cs` being the candidates that phases 3 and 4 leave. -/
structure Completes (ch : Channel) (x : Symbol) (done : List Done) (cs : List Candidate) (s t : State) : Prop where
  eventQueue : t.eventQueue = s.eventQueue ++ done.mapIdx fun k d => d.event ch x (s.eventSeq + BitVec.ofNat 8 k)
  eventSeq : t.eventSeq = s.eventSeq + BitVec.ofNat 8 done.length
  lostMask : t.lostMask = s.lostMask
  output : ∀ o, t.output o = done.foldl (fun y d => y.completed o s.timeBase d.2.2) (s.output o)
  slot : ∀ m, t.slot m = if ∃ d ∈ done, d.1 = m ∧ d.2.2.oneShot = true then (s.slot m).disarm else s.slot m
  cancelled : ∀ d ∈ done, d.2.2.oneShot = true → ∀ j, ∀ c ∈ (t.chan j).candidates, c.pattern ≠ d.1
  cleared : (∃ d ∈ done, d.2.2.clearOnComplete = true) → (t.chan ch).candidates = []
  fewer : (t.chan ch).candidates.Sublist cs
  ready : (t.chan ch).ready = (s.chan ch).ready
  latch : (t.chan ch).latch = (s.chan ch).latch
  disposed : Disposed (s.chan ch) x done (t.chan ch).queue (t.chan ch).tail

/-- The disposition of the symbol completes what phase 5 left. -/
theorem CompletionsTaken.completes {cs : List Candidate} {queue : List Symbol} {tail : Option Tail}
    (taken : CompletionsTaken ch x done (s.modChan ch fun c => { c with candidates := cs }) t)
    (clears : (∃ d ∈ done, d.2.2.clearOnComplete = true) → (t.chan ch).candidates = [])
    (disposed : Disposed (s.chan ch) x done queue tail) :
    Completes ch x done cs s (t.modChan ch fun c => { c with queue := queue, tail := tail }) := by
  obtain ⟨eventQueue, eventSeq, lostMask, output, slot, cancelled, left, ls, chan, fewer⟩ := taken
  rw [chan_modChan_same] at chan fewer
  have own := chan_modChan_same t ch fun c => { c with queue := queue, tail := tail }
  refine ⟨eventQueue, eventSeq, lostMask, output, slot, fun d hd once j => ?_, fun clear => ?_, ?_, ?_, ?_, ?_⟩
  · rw [chan_modChan]
    split
    next same => exact cancelled d hd once ch
    next => exact cancelled d hd once j
  · rw [own]
    exact clears clear
  · rw [own, chan]
    exact fewer
  · rw [own, chan]
  · rw [own, chan]
  · rw [own]
    exact disposed

/-- R61–R65: phases 5 to 7 of a pass without lockouts and refusals. -/
theorem passPhases_completes {w : Spawning} (holds : ∀ d ∈ done, s.Holds d)
    (unlocking : ∀ c ∈ (s.chan ch).candidates, s.fate x c ≠ .locks)
    (spawning : (s.passCandidates ch x).spawnAll ch x = w) (accepted : w.refused = none)
    (isDone : inPatternOrder (s.advanceCompletions ch x ++ w.completions) = done.map Done.completion)
    (eventRoom : s.eventQueue.length + done.length ≤ 32) (room : (s.chan ch).queue.length < 32)
    (untailed : (s.chan ch).tail = none)
    (loose : (∃ d ∈ done, d.2.2.swallow = true) ∨ (∃ d ∈ done, d.2.2.clearOnComplete = true)
      ∨ ∀ c ∈ w.candidates, s.swallowing c = false) :
    Completes ch x done w.candidates s (s.passPhases ch x) := by
  set u := s.modChan ch fun c => { c with candidates := w.candidates } with u_eq
  have before : (s.passCandidates ch x).passSpawning ch x w = u := by
    rw [passCandidates_quiet unlocking, passSpawning_none accepted, modChan_modChan]
  have holdsThen : ∀ d ∈ done, u.Holds d := holds
  have taken := passCompletions_takes (ch := ch) (x := x) holdsThen (s := u) eventRoom
  have clears := passCompletions_clears (ch := ch) (x := x) holdsThen
  set v := u.passCompletions ch x (done.map Done.completion) with v_eq
  obtain ⟨cs, ls, chan, fewer⟩ := taken.chan
  rw [u_eq, chan_modChan_same] at chan fewer
  have swallowing : v.swallowing = s.swallowing := by
    funext c
    simp only [State.swallowing, State.swallows, taken.record?]
    rfl
  obtain ⟨queue, tail, handed, disposed⟩ := handOn_disposes (s := v) (ch := ch) (x := x) (done := done)
    (fun d hd => (holdsThen d hd).congr (taken.record? d.1)) (by rw [chan]; exact room) (by rw [chan]; exact untailed) (by
      rcases loose with swallows | clear | loose
      · exact .inl swallows
      · rw [clears clear]
        exact .inr nofun
      · rw [chan, swallowing]
        exact .inr fun c hc => loose c (fewer.subset hc))
  have phases : s.passPhases ch x = v.modChan ch fun c => { c with queue := queue, tail := tail } := by
    rw [← handed]
    unfold State.passPhases
    dsimp only
    rw [spawning, isDone, before]
  rw [chan] at disposed
  obtain ⟨swallowed, tailed, stored⟩ := disposed
  rw [phases]
  exact taken.completes clears ⟨swallowed, tailed, stored⟩

end Sys2Proof.Machine

/-! Which candidates and patterns complete on a symbol (sections 3.6 to 3.8), and O26. -/

namespace Sys2Proof.Machine

variable {s t : State} {ch : Channel} {x : Symbol} {n : PatternNum} {r : Stored} {done : List Done}

/-! ## Phase 4 with room for every candidate (R58–R60) -/

/-- The pattern spawns a candidate on the symbol. -/
def State.startsCandidate (s : State) (ch : Channel) (x : Symbol) (n : PatternNum) : Bool :=
  (s.eligible? ch x n).any fun r => r.pattern.length != 1

/-- The pattern, of length 1, completes on the symbol. -/
def State.completesAtOnce (s : State) (ch : Channel) (x : Symbol) (n : PatternNum) : Bool :=
  (s.eligible? ch x n).any fun r => r.pattern.length == 1

theorem startsCandidate_iff : s.startsCandidate ch x n = true ↔
    ∃ r, s.eligible? ch x n = some r ∧ r.pattern.length ≠ 1 := by
  simp [State.startsCandidate, Option.any_eq_true]

theorem completesAtOnce_iff : s.completesAtOnce ch x n = true ↔
    ∃ r, s.eligible? ch x n = some r ∧ r.pattern.length = 1 := by
  simp [State.completesAtOnce, Option.any_eq_true]

/-- R59: where nothing is refused, phase 4 spawns and completes in the order of the patterns. -/
theorem foldl_spawnOne_accepts (patterns : List PatternNum) (w : Spawning) (accepted : w.refused = none)
    (room : w.candidates.length + (patterns.filter (s.startsCandidate ch x)).length ≤ 12) :
    patterns.foldl (s.spawnOne ch x) w =
      ⟨w.candidates ++ (patterns.filter (s.startsCandidate ch x)).map (s.spawned x),
        w.completions ++ (patterns.filter (s.completesAtOnce ch x)).map (⟨·, x.arrival⟩), none⟩ := by
  induction patterns generalizing w with
  | nil =>
    obtain ⟨cs, ds, refused⟩ := w
    cases accepted
    simp
  | cons n patterns ih =>
    rw [List.foldl_cons]
    rw [List.filter_cons] at room
    cases eligible : s.eligible? ch x n with
    | none =>
      have idle : s.startsCandidate ch x n = false ∧ s.completesAtOnce ch x n = false := by
        simp [State.startsCandidate, State.completesAtOnce, eligible]
      rw [idle.1] at room
      have same : s.spawnOne ch x w n = w := by simp only [State.spawnOne, eligible]
      rw [same, ih w accepted room, List.filter_cons_of_neg (by simp [idle]), List.filter_cons_of_neg (by simp [idle])]
    | some r =>
      by_cases one : r.pattern.length = 1
      · have completes : s.startsCandidate ch x n = false ∧ s.completesAtOnce ch x n = true := by
          simp [State.startsCandidate, State.completesAtOnce, eligible, one]
        rw [completes.1] at room
        have turn : s.spawnOne ch x w n = { w with completions := w.completions ++ [⟨n, x.arrival⟩] } := by
          simp only [State.spawnOne, eligible, one, if_true]
        rw [turn, ih { w with completions := w.completions ++ [⟨n, x.arrival⟩] } accepted room,
          List.filter_cons_of_neg (by simp [completes]), List.filter_cons_of_pos completes.2]
        simp
      · have spawns : s.startsCandidate ch x n = true ∧ s.completesAtOnce ch x n = false := by
          simp [State.startsCandidate, State.completesAtOnce, eligible, one]
        rw [spawns.1, if_pos rfl, List.length_cons] at room
        obtain ⟨armed, _⟩ := eligible?_some.mp eligible
        have few : ¬Config.candidateMax ≤ w.candidates.length := by
          rw [Config.candidateMax]
          omega
        have turn : s.spawnOne ch x w n = { w with candidates := w.candidates ++ [s.spawned x n] } := by
          simp only [State.spawnOne, eligible, one, few, if_false, State.spawned, armed, Slot.record?]
        rw [turn, ih { w with candidates := w.candidates ++ [s.spawned x n] } accepted
            (by rw [List.length_append, List.length_singleton]; omega),
          List.filter_cons_of_pos spawns.1, List.filter_cons_of_neg (by simp [spawns])]
        simp

/-! ## The order of the completions (R61) -/

theorem mem_inPatternOrder {l : List Completion} {d : Completion} : d ∈ inPatternOrder l ↔ d ∈ l := by
  simp [inPatternOrder, mem_allPatterns]

theorem inPatternOrder_sorted {l : List Completion} (distinct : l.Pairwise fun a b => a.pattern ≠ b.pattern) :
    (inPatternOrder l).Pairwise fun a b => a.pattern < b.pattern := by
  refine List.pairwise_flatMap.mpr ⟨fun n _ => ?_, allPatterns_sorted.imp fun below a ha b hb => ?_⟩
  · refine (distinct.filter _).imp_of_mem fun ha hb different => ?_
    have same := (beq_iff_eq.mp (List.mem_filter.mp ha).2).trans (beq_iff_eq.mp (List.mem_filter.mp hb).2).symm
    exact absurd same different
  · rwa [beq_iff_eq.mp (List.mem_filter.mp ha).2, beq_iff_eq.mp (List.mem_filter.mp hb).2]

/-- The completions in pattern-number order are the one sorted list of them. -/
theorem inPatternOrder_eq {l m : List Completion} (distinct : l.Pairwise fun a b => a.pattern ≠ b.pattern)
    (sorted : m.Pairwise fun a b => a.pattern < b.pattern) (same : ∀ d, d ∈ l ↔ d ∈ m) : inPatternOrder l = m := by
  have irreflexive : Std.Irrefl fun a b : Completion => a.pattern < b.pattern := ⟨fun a => lt_irrefl a.pattern⟩
  have antisymmetric : Std.Antisymm fun a b : Completion => a.pattern < b.pattern :=
    ⟨fun a b ab ba => absurd ab ba.asymm⟩
  exact (inPatternOrder_sorted distinct).eq_of_mem_iff sorted fun d => mem_inPatternOrder.trans (same d)

/-- The completions of a symbol: candidates that it completes, and patterns of length 1 (R54, R59). -/
def State.CompletesAs (s : State) (ch : Channel) (x : Symbol) (d : Completion) : Prop :=
  (∃ b ∈ (s.chan ch).candidates, s.fate x b = .completes ∧ b.pattern = d.pattern ∧ b.birth = d.birth)
    ∨ s.completesAtOnce ch x d.pattern = true ∧ d.birth = x.arrival

/-- The completions of a pass without lockouts and refusals, in the order in which its phases make them. -/
def State.completionsOf (s : State) (ch : Channel) (x : Symbol) : List Completion :=
  s.advanceCompletions ch x ++ (allPatterns.filter (s.completesAtOnce ch x)).map fun n => ⟨n, x.arrival⟩

theorem mem_advanceCompletions (unlocking : ∀ c ∈ (s.chan ch).candidates, s.fate x c ≠ .locks) {d : Completion} :
    d ∈ s.advanceCompletions ch x ↔
      ∃ b ∈ (s.chan ch).candidates, s.fate x b = .completes ∧ b.pattern = d.pattern ∧ b.birth = d.birth := by
  obtain ⟨n, birth⟩ := d
  simp [State.advanceCompletions, startsLockout_free unlocking, and_assoc]

theorem mem_completionsOf (unlocking : ∀ c ∈ (s.chan ch).candidates, s.fate x c ≠ .locks) {d : Completion} :
    d ∈ s.completionsOf ch x ↔ s.CompletesAs ch x d := by
  obtain ⟨n, birth⟩ := d
  rw [State.completionsOf, List.mem_append, mem_advanceCompletions unlocking, State.CompletesAs, List.mem_map]
  refine or_congr_right ⟨?_, fun ⟨completes, born⟩ => ?_⟩
  · rintro ⟨m, hm, same⟩
    cases same
    exact ⟨(List.mem_filter.mp hm).2, rfl⟩
  · exact ⟨n, List.mem_filter.mpr ⟨mem_allPatterns n, completes⟩, congrArg _ born.symm⟩

/-- No pattern completes twice on a symbol: its candidates stand at different positions past the first. -/
theorem completionsOf_distinct
    (placed : ∀ b ∈ (s.chan ch).candidates, ∃ r, s.slot b.pattern = .armed r ∧ 1 ≤ b.position)
    (apart : (s.chan ch).candidates.Pairwise fun a b => ¬(a.pattern = b.pattern ∧ a.position = b.position)) :
    (s.completionsOf ch x).Pairwise fun a b => a.pattern ≠ b.pattern := by
  have last {b : Candidate} (hb : b ∈ (s.chan ch).candidates) (completes : s.fate x b = .completes) :
      ∃ r, s.slot b.pattern = .armed r ∧ b.position + 1 = r.pattern.length ∧ 1 ≤ b.position := by
    obtain ⟨r, armed, past⟩ := placed b hb
    have stored : (s.slot b.pattern).record? = some r := by rw [armed]; rfl
    exact ⟨r, armed, ((fate_completes stored).mp completes).2.2, past⟩
  have completing {b : Candidate} (hb : b ∈ (s.chan ch).candidates.filter fun c =>
      s.fate x c == .completes && !s.startsLockout ch x c.pattern) :
      b ∈ (s.chan ch).candidates ∧ s.fate x b = .completes := by
    obtain ⟨isThere, conditions⟩ := List.mem_filter.mp hb
    rw [Bool.and_eq_true, beq_iff_eq] at conditions
    exact ⟨isThere, conditions.1⟩
  refine List.pairwise_append.mpr ⟨List.pairwise_map.mpr ?_, List.pairwise_map.mpr ?_, fun d hd e he => ?_⟩
  · refine (apart.filter _).imp_of_mem fun {a b} ha hb different same => different ⟨same, ?_⟩
    obtain ⟨isThere, completes⟩ := completing ha
    obtain ⟨p, armed, long, _⟩ := last isThere completes
    obtain ⟨isThere, completes⟩ := completing hb
    obtain ⟨q, alsoArmed, alsoLong, _⟩ := last isThere completes
    rw [show a.pattern = b.pattern from same, alsoArmed] at armed
    cases armed
    omega
  · exact (allPatterns_nodup.filter _).imp fun different => different
  · obtain ⟨b, hb, rfl⟩ := List.mem_map.mp hd
    obtain ⟨n, hn, rfl⟩ := List.mem_map.mp he
    obtain ⟨isThere, completes⟩ := completing hb
    obtain ⟨p, armed, long, past⟩ := last isThere completes
    obtain ⟨r, eligible, one⟩ := completesAtOnce_iff.mp (List.mem_filter.mp hn).2
    intro same
    obtain ⟨alsoArmed, _⟩ := eligible?_some.mp eligible
    rw [show n = b.pattern from same.symm, armed] at alsoArmed
    cases alsoArmed
    omega

/-- R61: the completions in pattern-number order, given as a list. -/
theorem completionsOf_inOrder
    (placed : ∀ b ∈ (s.chan ch).candidates, ∃ r, s.slot b.pattern = .armed r ∧ 1 ≤ b.position)
    (apart : (s.chan ch).candidates.Pairwise fun a b => ¬(a.pattern = b.pattern ∧ a.position = b.position))
    (unlocking : ∀ c ∈ (s.chan ch).candidates, s.fate x c ≠ .locks)
    (sorted : done.Pairwise fun a b => a.1 < b.1)
    (isDone : ∀ n birth p, (n, birth, p) ∈ done ↔ ∃ r, s.slot n = .armed r ∧ r.pattern = p ∧ s.CompletesAs ch x ⟨n, birth⟩) :
    inPatternOrder (s.completionsOf ch x) = done.map Done.completion := by
  refine inPatternOrder_eq (completionsOf_distinct placed apart) (List.pairwise_map.mpr sorted) fun d => ?_
  rw [mem_completionsOf unlocking, List.mem_map]
  constructor
  · intro completes
    obtain ⟨r, armed⟩ : ∃ r, s.slot d.pattern = .armed r := by
      rcases completes with ⟨b, hb, -, isPattern, -⟩ | ⟨once, -⟩
      · obtain ⟨r, armed, -⟩ := placed b hb
        exact ⟨r, isPattern ▸ armed⟩
      · obtain ⟨r, eligible, -⟩ := completesAtOnce_iff.mp once
        exact ⟨r, (eligible?_some.mp eligible).1⟩
    exact ⟨(d.pattern, d.birth, r.pattern), (isDone _ _ _).mpr ⟨r, armed, rfl, completes⟩, rfl⟩
  · rintro ⟨⟨n, birth, p⟩, hp, rfl⟩
    obtain ⟨r, -, -, completes⟩ := (isDone n birth p).mp hp
    exact completes

/-! ## A pass without lockouts and refusals -/

theorem passCandidates_eligible? (unlocking : ∀ c ∈ (s.chan ch).candidates, s.fate x c ≠ .locks) :
    (s.passCandidates ch x).eligible? ch x n = s.eligible? ch x n := by
  rw [passCandidates_quiet unlocking]
  exact eligible?_modChan rfl

/-- R59: phase 4 has room for every candidate it makes. -/
theorem spawnAll_accepts (unlocking : ∀ c ∈ (s.chan ch).candidates, s.fate x c ≠ .locks)
    (few : (s.chan ch).candidates.length + (allPatterns.filter (s.startsCandidate ch x)).length ≤ 12) :
    ∃ cs, (s.passCandidates ch x).spawnAll ch x =
      ⟨cs, (allPatterns.filter (s.completesAtOnce ch x)).map fun n => ⟨n, x.arrival⟩, none⟩ := by
  have starts : (s.passCandidates ch x).startsCandidate ch x = s.startsCandidate ch x := by
    funext n
    rw [State.startsCandidate, passCandidates_eligible? unlocking, State.startsCandidate]
  have completes : (s.passCandidates ch x).completesAtOnce ch x = s.completesAtOnce ch x := by
    funext n
    rw [State.completesAtOnce, passCandidates_eligible? unlocking, State.completesAtOnce]
  have fewer : ((s.passCandidates ch x).chan ch).candidates.length ≤ (s.chan ch).candidates.length := by
    rw [passCandidates_quiet unlocking, chan_modChan_same]
    exact List.length_filterMap_le _ _
  rw [State.spawnAll, foldl_spawnOne_accepts allPatterns _ rfl (by rw [starts]; dsimp only; omega), completes]
  exact ⟨_, rfl⟩

/-- R54, R59, R61–R65: the phases of a pass, from what completes on its symbol. -/
theorem passPhases_done {spawned : List PatternNum}
    (placed : ∀ b ∈ (s.chan ch).candidates, ∃ r, s.slot b.pattern = .armed r ∧ 1 ≤ b.position)
    (apart : (s.chan ch).candidates.Pairwise fun a b => ¬(a.pattern = b.pattern ∧ a.position = b.position))
    (unlocking : ∀ c ∈ (s.chan ch).candidates, s.fate x c ≠ .locks)
    (spawns : ∀ n r, s.eligible? ch x n = some r → r.pattern.length ≠ 1 → n ∈ spawned)
    (few : (s.chan ch).candidates.length + spawned.length ≤ 12)
    (sorted : done.Pairwise fun a b => a.1 < b.1)
    (isDone : ∀ n birth p, (n, birth, p) ∈ done ↔ ∃ r, s.slot n = .armed r ∧ r.pattern = p ∧ s.CompletesAs ch x ⟨n, birth⟩)
    (eventRoom : s.eventQueue.length + done.length ≤ 32) (room : (s.chan ch).queue.length < 32)
    (untailed : (s.chan ch).tail = none)
    (loose : (∃ d ∈ done, d.2.2.swallow = true ∨ d.2.2.clearOnComplete = true)
      ∨ ∀ n r, (s.slot n).record? = some r → r.pattern.swallow = false) :
    (∀ d ∈ done, s.Holds d) ∧ ∃ cs, Completes ch x done cs s (s.passPhases ch x) := by
  have holds : ∀ d ∈ done, s.Holds d := by
    rintro ⟨n, birth, p⟩ hd
    obtain ⟨r, armed, fields, -⟩ := (isDone n birth p).mp hd
    exact ⟨r, by rw [armed]; rfl, fields⟩
  have starting : (allPatterns.filter (s.startsCandidate ch x)).length ≤ spawned.length := by
    refine ((allPatterns_nodup.filter _).subperm fun n hn => ?_).length_le
    obtain ⟨r, eligible, long⟩ := startsCandidate_iff.mp (List.mem_filter.mp hn).2
    exact spawns n r eligible long
  obtain ⟨cs, spawning⟩ := spawnAll_accepts unlocking (by omega)
  refine ⟨holds, cs, passPhases_completes holds unlocking spawning rfl
    (completionsOf_inOrder placed apart unlocking sorted isDone) eventRoom room untailed ?_⟩
  rcases loose with ⟨d, hd, swallows | clears⟩ | loose
  · exact .inl ⟨d, hd, swallows⟩
  · exact .inr (.inl ⟨d, hd, clears⟩)
  · refine .inr (.inr fun c _ => ?_)
    unfold State.swallowing State.swallows
    split
    next r stored => exact loose c.pattern r stored
    next => rfl

/-! ## O26 -/

/-- R141, R142: the statement's table of actions. -/
theorem completed_eq (o : OutputNum) (now : Time) (y : Output) (p : Pattern) :
    y.completed o now p =
      if p.actionOutput = some o then
        match p.actionMode, y.level with
        | .set, _ => { y with level := .high, deadline := none }
        | .clear, _ => { y with level := .low, deadline := none }
        | .toggle, .low => { y with level := .high, deadline := none }
        | .toggle, .high => { y with level := .low, deadline := none }
        | .pulse, _ => { y with level := .high, deadline := some (now + 10 * y.width.toNat) }
      else y := by
  unfold Output.completed Output.act
  cases p.actionMode <;> cases y.level <;> rfl

/-- R23, R62: a slot after its pattern completed or not. -/
theorem Completes.slot_armed {cs : List Candidate} (completes : Completes ch x done cs s t) (holds : ∀ d ∈ done, s.Holds d)
    (armed : s.slot n = .armed r) :
    t.slot n = if (∃ d ∈ done, d.1 = n) ∧ r.pattern.oneShot = true then .disarmed r else .armed r := by
  have fields {d : Done} (hd : d ∈ done) (here : d.1 = n) : d.2.2 = r.pattern := by
    obtain ⟨q, stored, fields⟩ := holds d hd
    rw [here, armed] at stored
    cases stored
    exact fields.symm
  have same : (∃ d ∈ done, d.1 = n ∧ d.2.2.oneShot = true) ↔ (∃ d ∈ done, d.1 = n) ∧ r.pattern.oneShot = true := by
    constructor
    · rintro ⟨d, hd, here, once⟩
      exact ⟨⟨d, hd, here⟩, fields hd here ▸ once⟩
    · rintro ⟨⟨d, hd, here⟩, once⟩
      exact ⟨d, hd, here, (fields hd here).symm ▸ once⟩
  rw [completes.slot, armed]
  exact if_congr same rfl rfl

/-- R54: the phases of a pass at which the one candidate of the one ARMED pattern completes and nothing spawns. -/
theorem passPhases_completes_lone {b : Candidate} (only : OnlyArmed s n r) (lone : (s.chan ch).candidates = [b])
    (isPattern : b.pattern = n) (fate : s.fate x b = .completes)
    (unmatched : elementMatches (s.elementAt r.start) x = false) (untailed : (s.chan ch).tail = none)
    (room : (s.chan ch).queue.length < 32) (eventRoom : s.eventQueue.length < 32) :
    Completes ch x [(n, b.birth, r.pattern)] [] s (s.passPhases ch x) := by
  have unlocking : ∀ c ∈ (s.chan ch).candidates, s.fate x c ≠ .locks := by simp [lone, fate]
  have spawning : (s.passCandidates ch x).spawnAll ch x = ⟨[], [], none⟩ := by
    rw [spawnAll_none fun m => (passCandidates_eligible? unlocking).trans (only.eligible?_none unmatched m),
      passCandidates_quiet unlocking, chan_modChan_same]
    simp [lone, State.survivor?, fate]
  have isDone : inPatternOrder (s.advanceCompletions ch x ++ []) = [Done.completion (n, b.birth, r.pattern)] := by
    rw [State.advanceCompletions, lone, List.filter_cons_of_pos (by simp [fate, startsLockout_free unlocking])]
    exact (inPatternOrder_lone _).trans (by rw [← isPattern]; rfl)
  refine passPhases_completes ?_ unlocking spawning rfl isDone (by simpa using eventRoom) room untailed (.inr (.inr nofun))
  simpa [State.Holds] using ⟨r, only.stored, rfl⟩

/-- Settles O26: the completions of a pass in pattern-number order, and phases 5 to 7 on them. -/
theorem loneCandidateCompletes : Obligations.LoneCandidateCompletes := by
  refine ⟨fun s ch x n r b serves kind only lone isPattern inTime solid matching isLast unmatched unlocked untailed room
    eventRoom => ?_, ?_⟩
  · have chan := begun_chan s ch
    have fate : (s.begun ch).fate x b = .completes :=
      (fate_completes (isPattern ▸ only.stored)).mpr ⟨not_transparent solid, matching, isLast⟩
    rw [matchPass_fresh serves kind (by simpa [lone] using inTime) unlocked untailed]
    have completes := passPhases_completes_lone (s := s.begun ch) only (by rw [chan]; exact lone) isPattern fate unmatched
      (by rw [chan]; exact untailed) (by rw [chan]; exact room) eventRoom
    have disposed := completes.disposed
    rw [chan] at disposed
    refine ⟨_, rfl, completes.eventQueue.trans ?_, completes.eventSeq, completes.lostMask, fun m => ?_,
      List.sublist_nil.mp completes.fewer, completes.ready.trans (by rw [chan]), completes.latch.trans (by rw [chan]),
      fun o => ?_, fun swallows => ?_, fun loose => ?_⟩
    · change s.eventQueue ++ [Done.event ch x (n, b.birth, r.pattern) (s.eventSeq + 0#8)] = _
      rw [BitVec.add_zero]
      rfl
    · have here : (∃ d ∈ [((n, b.birth, r.pattern) : Done)], d.1 = m ∧ d.2.2.oneShot = true)
          ↔ m = n ∧ r.pattern.oneShot = true := by
        simp only [List.mem_singleton, exists_eq_left]
        exact and_congr_left fun _ => eq_comm
      rw [completes.slot]
      by_cases once : m = n ∧ r.pattern.oneShot = true
      · rw [if_pos (here.mpr once), if_pos once, once.1]
        exact congrArg Slot.disarm only.1
      · rw [if_neg fun h => once (here.mp h), if_neg once]
        rfl
    · exact (completes.output o).trans (completed_eq o s.timeBase (s.output o) r.pattern)
    · exact ⟨disposed.swallowed b.birth (by simp [swallows]) (by simp),
        disposed.tailed r.pattern.tail (by simp [swallows]) (by simp)⟩
    · exact disposed.stored (by simpa using loose)
  · intro s ch x done spawned transparent firstMatches serves kind unlocked untailed room eventRoom cands apart spawns few sorted
      isDone loose
    have chan := begun_chan s ch
    have transparent_iff (p : Pattern) : ¬transparent p ↔ p.transparent x = false := by
      simp [transparent, Pattern.transparent]
    have eligible_iff (n : PatternNum) (r : Stored) : (s.begun ch).eligible? ch x n = some r ↔ firstMatches n r := by
      rw [eligible?_some, chan, unlocked, ← transparent_iff]
      simp only [List.not_mem_nil, false_imp_iff, implies_true, true_and]
      rfl
    have stored {m : PatternNum} {q : Stored} (armed : s.slot m = .armed q) : ((s.begun ch).slot m).record? = some q := by
      rw [show (s.begun ch).slot m = .armed q from armed]
      rfl
    have unlocking : ∀ c ∈ ((s.begun ch).chan ch).candidates, (s.begun ch).fate x c ≠ .locks := by
      rw [chan]
      intro c hc locks
      obtain ⟨r, armed, -, -, through | matching | mild | low⟩ := cands c hc <;>
        obtain ⟨solid, unmatched, lockout, high⟩ := (fate_locks (stored armed)).mp locks
      · exact (transparent_iff r.pattern).mpr solid through
      · exact absurd (matching.symm.trans unmatched) nofun
      · exact absurd (mild.symm.trans lockout) nofun
      · exact absurd low (Nat.not_lt.mpr high)
    have isDone (n : PatternNum) (birth : ArrivalNum) (p : Pattern) : (n, birth, p) ∈ done ↔
        ∃ r, (s.begun ch).slot n = .armed r ∧ r.pattern = p ∧ (s.begun ch).CompletesAs ch x ⟨n, birth⟩ := by
      refine (isDone n birth p).trans (exists_congr fun r => and_congr_right fun armed => and_congr_right fun fields => ?_)
      subst fields
      rw [State.CompletesAs, chan]
      refine or_congr (exists_congr fun b => and_congr_right fun _ => ?_) ?_
      · constructor
        · rintro ⟨rfl, born, solid, matching, isLast⟩
          exact ⟨(fate_completes (stored armed)).mpr ⟨(transparent_iff _).mp solid, matching, isLast⟩, rfl, born⟩
        · rintro ⟨completes, rfl, born⟩
          obtain ⟨solid, matching, isLast⟩ := (fate_completes (stored armed)).mp completes
          exact ⟨rfl, born, (transparent_iff _).mpr solid, matching, isLast⟩
      · rw [← and_assoc, completesAtOnce_iff]
        refine and_congr_left fun _ => ⟨fun ⟨one, first⟩ => ⟨r, (eligible_iff n r).mpr first, one⟩, ?_⟩
        rintro ⟨q, eligible, one⟩
        have first := (eligible_iff n q).mp eligible
        obtain rfl : r = q := Slot.armed.inj (armed.symm.trans first.1)
        exact ⟨one, first⟩
    rw [matchPass_fresh serves kind (fun b hb => by obtain ⟨r, _, _, inTime, _⟩ := cands b hb; exact inTime) unlocked untailed]
    obtain ⟨holds, cs, completes⟩ := passPhases_done (s := s.begun ch) (x := x) (spawned := spawned)
      (by
        rw [chan]
        intro b hb
        obtain ⟨r, armed, past, -⟩ := cands b hb
        exact ⟨r, armed, past⟩)
      (by rw [chan]; exact apart) unlocking (fun n r eligible long => spawns n r ((eligible_iff n r).mp eligible) long)
      (by rw [chan]; exact few) sorted isDone eventRoom (by rw [chan]; exact room) (by rw [chan]; exact untailed) loose
    have disposed := completes.disposed
    rw [chan] at disposed
    refine ⟨_, rfl, completes.eventQueue, completes.eventSeq, completes.lostMask, fun o => ?_,
      fun n r armed => completes.slot_armed holds armed, completes.cancelled, completes.cleared, disposed.swallowed,
      disposed.tailed, disposed.stored⟩
    rw [completes.output]
    exact List.foldl_ext _ _ _ fun y d _ => completed_eq o s.timeBase y d.2.2

end Sys2Proof.Machine
